-- ==== Sys2Proof/Word.lean ====
section
/-! DEFINITION. The word types of the block (00_scope.md R7): octets, 16-bit fields and registers, 32-bit values,
64-bit command words. All are unsigned. -/

namespace Sys2Proof

/-- An octet: 8 bits, bit 0 the least significant (R7). -/
abbrev Octet := BitVec 8

/-- A 16-bit operand field (R50) or register. -/
abbrev Half := BitVec 16

/-- A 32-bit response value (R52) or operand `d = b : c` (R50). -/
abbrev Word := BitVec 32

/-- A 64-bit command word (R50). -/
abbrev Command := BitVec 64

end Sys2Proof
end

