-- ==== Sys2Proof/Config.lean ====
section
/-! DEFINITION. What an implementation of the block fixes (00_scope.md R5): the capacities, with the spec's defaults.
The block has no free value: no rule draws one (20_memory.md R41). -/

namespace Sys2Proof

/-- The capacities of 00_scope.md R5 that an implementation chooses. `N_TM_CHAN` is the number of channel contexts the
state holds; `PAYBUF_CAP` is fixed and `CADU_CAP` derived. -/
structure Params where
  /-- `FRAME_CAP`: octets in each TM frame buffer. -/
  frameCap : Nat
  /-- `OVF_CAP`: octets in each channel's overflow ring. -/
  ovfCap : Nat
  /-- `INBUF_CAP`: octets in the input buffer. -/
  inbufCap : Nat
  /-- `CLTU_CAP`: octets in the CLTU buffer. -/
  cltuCap : Nat
  /-- `TCBUF_CAP`: octets in the TC frame buffer. -/
  tcbufCap : Nat
  /-- `ASM_CAP`: octets in the sync-marker buffer. -/
  asmCap : Nat
  deriving DecidableEq, Repr

/-- `PAYBUF_CAP` = 1024 - 5 (R5: fixed, not free). -/
def Params.paybufCap : Nat := 1019

/-- `CADU_CAP` = `ASM_CAP + FRAME_CAP` (R5: derived, not free). -/
def Params.caduCap (p : Params) : Nat := p.asmCap + p.frameCap

/-- The default capacities of R5, those of every vector of 95_test_vectors.md. -/
def Config.defaultParams : Params :=
  { frameCap := 2048, ovfCap := 4096, inbufCap := 4096, cltuCap := 1186, tcbufCap := 1029, asmCap := 8 }

/-- The default `N_TM_CHAN` of R5. -/
def Config.defaultChannels : Nat := 1

/-- What an octet of a buffer reads as when no cell lists it: `00`, the reset content (10_state.md R31). -/
def Config.unlistedOctet : Octet := 0#8

end Sys2Proof
end

