-- ==== Sys2Proof/Syntax.lean ====
section
/-! DEFINITION. The 57 commands of the opcode map (30_encoding.md R54), one constructor each, with the operands the
command's rule names; bits no rule names are ignored (R51) and have no place here. -/

namespace Sys2Proof

/-- `svc_type` of the channel service descriptor (R55). -/
inductive ServiceType where
  /-- 0: Master-Channel-Frame service. -/
  | mcf
  /-- 1: an access service. -/
  | access
  /-- 2: a non-access service. -/
  | nonAccess
  /-- 3: reserved; no frame is valid for it (R108). -/
  | reserved
  deriving DecidableEq, Repr

/-- The channel service descriptor, packed in `cmd.d` (R55). -/
structure ServiceDescriptor where
  /-- `svc_type`, `d[1:0]`. -/
  svcType : ServiceType
  /-- `svc_version`, `d[3:2]`. -/
  version : BitVec 2
  /-- `svc_scid`, `d[13:4]`. -/
  scid : BitVec 10
  /-- `svc_vcid`, `d[19:14]`. -/
  vcid : BitVec 6
  /-- `svc_mapid`, `d[27:20]`, wide enough for the sentinel 255. -/
  mapid : BitVec 8
  /-- `svc_has_seg`, `d[28]`. -/
  hasSeg : Bool
  /-- `svc_has_fecf`, `d[29]`. -/
  hasFecf : Bool
  deriving DecidableEq, Repr

/-- The configuration operand of SDLP_INIT_CHANNEL (R63). -/
structure ChannelConfig where
  /-- `frame_len`, `a[15:0]`. -/
  frameLen : Half
  /-- `scid`, `b[9:0]`. -/
  scid : BitVec 10
  /-- `fecf_flag`, `b[10]`. -/
  fecf : Bool
  /-- `vcid`, `c[2:0]`. -/
  vcid : BitVec 3
  /-- `ocf_flag`, `c[3]`. -/
  ocf : Bool
  /-- `sechdr_flag`, `c[4]`. -/
  sechdr : Bool
  /-- `sechdr_len`, `c[10:5]`. -/
  sechdrLen : BitVec 6
  /-- `svc`, `c[11]`: false = VCP, true = VCA. -/
  vca : Bool
  /-- `is_vc`, `c[12]`. -/
  isVc : Bool
  deriving DecidableEq, Repr

/-- A command of the block (R54). -/
inductive Instr where
  -- host access (40_host_access.md)
  | bufRd (ch : BitVec 8) (space : Half) (addr : Half)
  | bufWr (ch : BitVec 8) (space : Half) (addr : Half) (octet : Octet)
  -- TCTF (42_tctf.md)
  | tcGetVersion
  | tcGetBypass
  | tcGetCtlcmd
  | tcGetScid
  | tcGetVcid
  | tcGetLength
  | tcGetSeq
  | tcGetSegFlags
  | tcGetMapid
  | tcGetPayloadLen (d : ServiceDescriptor)
  | tcCopyPayload (d : ServiceDescriptor)
  | tcIsValid (d : ServiceDescriptor)
  -- TMTF getters (43_tmtf.md)
  | tmGetVersion (ch : BitVec 8)
  | tmGetScid (ch : BitVec 8)
  | tmGetVcid (ch : BitVec 8)
  | tmGetOcfFlag (ch : BitVec 8)
  | tmGetMcCount (ch : BitVec 8)
  | tmGetVcCount (ch : BitVec 8)
  | tmGetSechdrFlag (ch : BitVec 8)
  | tmGetSyncFlag (ch : BitVec 8)
  | tmGetPktOrderFlag (ch : BitVec 8)
  | tmGetSegLenId (ch : BitVec 8)
  | tmGetFhp (ch : BitVec 8)
  | tmGetSechdrLen (ch : BitVec 8)
  | tmGetGvcid (ch : BitVec 8)
  | tmGetMcid (ch : BitVec 8)
  -- TMTF setters and helpers (43_tmtf.md)
  | tmSetVersion (ch : BitVec 8) (v : BitVec 2)
  | tmSetScid (ch : BitVec 8) (v : BitVec 10)
  | tmSetVcid (ch : BitVec 8) (v : BitVec 3)
  | tmSetOcfFlag (ch : BitVec 8) (v : Bool)
  | tmSetMcCount (ch : BitVec 8) (v : Octet)
  | tmSetVcCount (ch : BitVec 8) (v : Octet)
  | tmSetSechdrFlag (ch : BitVec 8) (v : Bool)
  | tmSetSyncFlag (ch : BitVec 8) (v : Bool)
  | tmSetPktOrderFlag (ch : BitVec 8) (v : Bool)
  | tmSetSegLenId (ch : BitVec 8) (v : BitVec 2)
  | tmSetFhp (ch : BitVec 8) (v : BitVec 11)
  | tmSetSechdrLen (ch : BitVec 8) (len : Half)
  | tmSetSechdrData (ch : BitVec 8) (len : Half)
  | tmSetOcf (ch : BitVec 8) (off : Half) (ocf : Word)
  | tmUpdateFecf (ch : BitVec 8) (off : Half)
  -- COP-1 / FARM-1 (44_cop1_farm1.md)
  | cop1InitClcw (vcid : BitVec 6)
  | cop1ProcessFrame (destAvail : Bool) (d : ServiceDescriptor)
  | clcwGetCopEffect
  | clcwGetVcid
  | clcwRd
  -- TC_SYNC, TM_SYNC (45_tc_sync.md, 46_tm_sync.md)
  | tcSyncGetFrame (cltuLen : Half) (derandomize : Bool)
  | tmSyncSynchronize (ch : BitVec 8) (asmLen : Half) (frameLen : Half) (randomize : Bool)
  -- TM_SDLP (47_tm_sdlp.md)
  | sdlpInitChannel (ch : BitVec 8) (cfg : ChannelConfig)
  | sdlpStartFrame (ch : BitVec 8)
  | sdlpAddPacket (ch : BitVec 8) (len : Half)
  | sdlpAddIdlePacket (ch : BitVec 8) (len : Half)
  | sdlpAddVcaData (ch : BitVec 8) (len : Half)
  | sdlpCompleteFrame (ch : BitVec 8) (ocfPresent : Bool) (ocf : Word)
  | sdlpGetStatus (ch : BitVec 8) (selector : Half)
  deriving DecidableEq, Repr

end Sys2Proof
end

