-- ==== Sys2Proof/WellFormed.lean ====
section
/-! DEFINITION. What is well formed: the capacities of an implementation (00_scope.md R5), and a command. -/

namespace Sys2Proof

/-- `FRAME_CAP`: 70 to 2048 (R5). -/
def Params.frameCapOk (p : Params) : Bool := 70 ≤ p.frameCap && p.frameCap ≤ 2048

/-- `OVF_CAP`: 1 to 65535 (R5). -/
def Params.ovfCapOk (p : Params) : Bool := 1 ≤ p.ovfCap && p.ovfCap ≤ 65535

/-- `INBUF_CAP`: 63 to 65535 (R5). -/
def Params.inbufCapOk (p : Params) : Bool := 63 ≤ p.inbufCap && p.inbufCap ≤ 65535

/-- `CLTU_CAP`: 10 to 65535 (R5). -/
def Params.cltuCapOk (p : Params) : Bool := 10 ≤ p.cltuCap && p.cltuCap ≤ 65535

/-- `TCBUF_CAP`: 1024 to 65535 (R5). -/
def Params.tcbufCapOk (p : Params) : Bool := 1024 ≤ p.tcbufCap && p.tcbufCap ≤ 65535

/-- `ASM_CAP`: even, 4 to 254 (R5). -/
def Params.asmCapOk (p : Params) : Bool := 4 ≤ p.asmCap && p.asmCap ≤ 254 && p.asmCap % 2 == 0

/-- The constraints of R5 on the capacities, together. -/
def Params.wellFormed (p : Params) : Bool :=
  p.frameCapOk && p.ovfCapOk && p.inbufCapOk && p.cltuCapOk && p.tcbufCapOk && p.asmCapOk

/-- `N_TM_CHAN`: 1 to 256 (R5). -/
def Config.channelCountOk (n : Nat) : Bool := 1 ≤ n && n ≤ 256

/-- A command is well formed whatever its operands: each operand is a bit vector of exactly the width its field has in
the command word, and every value of an operand field is accepted (30_encoding.md R51). A value that the command then
rejects (a channel that does not exist, a length out of bounds) is answered with a status, not refused here. -/
def Instr.wellFormed (_ : Instr) : Bool := true

end Sys2Proof
end

