-- ==== Sys2Proof/Decode.lean ====
section
/-! DEFINITION. The command word (30_encoding.md R50): its one format, decoding on `op` alone (R54), the packed
operands (R55, R63), and the encoder. Decoding is total: a reserved `op` is rejected by name (R64). -/

namespace Sys2Proof

/-- Why a command word is not a command: its `op` is not in the opcode map (R64, R252). -/
inductive DecodeError where
  /-- A reserved opcode; the block answers `IllegalOp`. -/
  | illegalOp (op : BitVec 8)
  deriving DecidableEq, Repr

/-- The five fields of a command word (R50). -/
structure CommandFields where
  /-- `cmd[63:56]`. -/
  op : BitVec 8
  /-- `cmd[55:48]`. -/
  ch : BitVec 8
  /-- `cmd[47:32]`. -/
  a : Half
  /-- `cmd[31:16]`. -/
  b : Half
  /-- `cmd[15:0]`. -/
  c : Half
  deriving DecidableEq, Repr

/-- The fields of a command word (R50). -/
def Command.fields (w : Command) : CommandFields :=
  { op := w.extractLsb' 56 8, ch := w.extractLsb' 48 8, a := w.extractLsb' 32 16,
    b := w.extractLsb' 16 16, c := w.extractLsb' 0 16 }

/-- The command word made of five fields (R50). -/
def CommandFields.word (f : CommandFields) : Command :=
  f.op ++ f.ch ++ f.a ++ f.b ++ f.c

/-- `d` = `b : c`, the 32-bit operand (R50). -/
def CommandFields.d (f : CommandFields) : Word := f.b ++ f.c

/-- `svc_type` from its two bits (R55). -/
def ServiceType.ofBits (v : BitVec 2) : ServiceType :=
  if v = 0 then .mcf else if v = 1 then .access else if v = 2 then .nonAccess else .reserved

/-- The two bits of `svc_type` (R55). -/
def ServiceType.bits : ServiceType → BitVec 2
  | .mcf => 0
  | .access => 1
  | .nonAccess => 2
  | .reserved => 3

/-- The service descriptor in `cmd.d` (R55); `d[31:30]` are ignored. -/
def ServiceDescriptor.ofWord (d : Word) : ServiceDescriptor :=
  { svcType := ServiceType.ofBits (d.extractLsb' 0 2), version := d.extractLsb' 2 2, scid := d.extractLsb' 4 10,
    vcid := d.extractLsb' 14 6, mapid := d.extractLsb' 20 8, hasSeg := d.getLsbD 28, hasFecf := d.getLsbD 29 }

/-- `cmd.d` of a service descriptor (R55), the ignored bits 0. -/
def ServiceDescriptor.word (s : ServiceDescriptor) : Word :=
  0#2 ++ BitVec.ofBool s.hasFecf ++ BitVec.ofBool s.hasSeg ++ s.mapid ++ s.vcid ++ s.scid ++ s.version ++ s.svcType.bits

/-- The configuration operand of SDLP_INIT_CHANNEL in `a`, `b`, `c` (R63); `b[15:11]` and `c[15:13]` are ignored. -/
def ChannelConfig.ofFields (a b c : Half) : ChannelConfig :=
  { frameLen := a, scid := b.extractLsb' 0 10, fecf := b.getLsbD 10, vcid := c.extractLsb' 0 3, ocf := c.getLsbD 3,
    sechdr := c.getLsbD 4, sechdrLen := c.extractLsb' 5 6, vca := c.getLsbD 11, isVc := c.getLsbD 12 }

/-- Field `b` of a configuration (R63), the ignored bits 0. -/
def ChannelConfig.fieldB (g : ChannelConfig) : Half := 0#5 ++ BitVec.ofBool g.fecf ++ g.scid

/-- Field `c` of a configuration (R63), the ignored bits 0. -/
def ChannelConfig.fieldC (g : ChannelConfig) : Half :=
  0#3 ++ BitVec.ofBool g.isVc ++ BitVec.ofBool g.vca ++ g.sechdrLen ++ BitVec.ofBool g.sechdr ++ BitVec.ofBool g.ocf ++ g.vcid

/-- The command in the fields of a word: the opcode map (R54), each command's operands as its rule names them. -/
def decodeFields (f : CommandFields) : Except DecodeError Instr :=
  match f.op.toNat with
  | 0x01 => .ok (.bufRd f.ch f.a f.b)
  | 0x02 => .ok (.bufWr f.ch f.a f.b (f.c.extractLsb' 0 8))
  | 0x20 => .ok .tcGetVersion
  | 0x21 => .ok .tcGetBypass
  | 0x22 => .ok .tcGetCtlcmd
  | 0x23 => .ok .tcGetScid
  | 0x24 => .ok .tcGetVcid
  | 0x25 => .ok .tcGetLength
  | 0x26 => .ok .tcGetSeq
  | 0x27 => .ok .tcGetSegFlags
  | 0x28 => .ok .tcGetMapid
  | 0x29 => .ok (.tcGetPayloadLen (.ofWord f.d))
  | 0x2A => .ok (.tcCopyPayload (.ofWord f.d))
  | 0x2B => .ok (.tcIsValid (.ofWord f.d))
  | 0x30 => .ok (.tmGetVersion f.ch)
  | 0x31 => .ok (.tmGetScid f.ch)
  | 0x32 => .ok (.tmGetVcid f.ch)
  | 0x33 => .ok (.tmGetOcfFlag f.ch)
  | 0x34 => .ok (.tmGetMcCount f.ch)
  | 0x35 => .ok (.tmGetVcCount f.ch)
  | 0x36 => .ok (.tmGetSechdrFlag f.ch)
  | 0x37 => .ok (.tmGetSyncFlag f.ch)
  | 0x38 => .ok (.tmGetPktOrderFlag f.ch)
  | 0x39 => .ok (.tmGetSegLenId f.ch)
  | 0x3A => .ok (.tmGetFhp f.ch)
  | 0x3B => .ok (.tmGetSechdrLen f.ch)
  | 0x3C => .ok (.tmGetGvcid f.ch)
  | 0x3D => .ok (.tmGetMcid f.ch)
  | 0x40 => .ok (.tmSetVersion f.ch (f.c.extractLsb' 0 2))
  | 0x41 => .ok (.tmSetScid f.ch (f.c.extractLsb' 0 10))
  | 0x42 => .ok (.tmSetVcid f.ch (f.c.extractLsb' 0 3))
  | 0x43 => .ok (.tmSetOcfFlag f.ch (f.c.getLsbD 0))
  | 0x44 => .ok (.tmSetMcCount f.ch (f.c.extractLsb' 0 8))
  | 0x45 => .ok (.tmSetVcCount f.ch (f.c.extractLsb' 0 8))
  | 0x46 => .ok (.tmSetSechdrFlag f.ch (f.c.getLsbD 0))
  | 0x47 => .ok (.tmSetSyncFlag f.ch (f.c.getLsbD 0))
  | 0x48 => .ok (.tmSetPktOrderFlag f.ch (f.c.getLsbD 0))
  | 0x49 => .ok (.tmSetSegLenId f.ch (f.c.extractLsb' 0 2))
  | 0x4A => .ok (.tmSetFhp f.ch (f.c.extractLsb' 0 11))
  | 0x4B => .ok (.tmSetSechdrLen f.ch f.c)
  | 0x4C => .ok (.tmSetSechdrData f.ch f.a)
  | 0x4D => .ok (.tmSetOcf f.ch f.a f.d)
  | 0x4E => .ok (.tmUpdateFecf f.ch f.a)
  | 0x50 => .ok (.cop1InitClcw (f.c.extractLsb' 0 6))
  | 0x51 => .ok (.cop1ProcessFrame (f.a.getLsbD 0) (.ofWord f.d))
  | 0x52 => .ok .clcwGetCopEffect
  | 0x53 => .ok .clcwGetVcid
  | 0x54 => .ok .clcwRd
  | 0x60 => .ok (.tcSyncGetFrame f.a (f.c.getLsbD 0))
  | 0x70 => .ok (.tmSyncSynchronize f.ch f.a f.b (f.c.getLsbD 0))
  | 0x80 => .ok (.sdlpInitChannel f.ch (.ofFields f.a f.b f.c))
  | 0x81 => .ok (.sdlpStartFrame f.ch)
  | 0x82 => .ok (.sdlpAddPacket f.ch f.a)
  | 0x83 => .ok (.sdlpAddIdlePacket f.ch f.a)
  | 0x84 => .ok (.sdlpAddVcaData f.ch f.a)
  | 0x85 => .ok (.sdlpCompleteFrame f.ch (f.a.getLsbD 0) f.d)
  | 0x86 => .ok (.sdlpGetStatus f.ch f.a)
  | _ => .error (.illegalOp f.op)

/-- The decoder: a command word to its command, or the name of what is wrong with it (R50, R54, R64). -/
def decode (w : Command) : Except DecodeError Instr := decodeFields w.fields

/-- The opcode of a command (R54). -/
def Instr.opcode : Instr → BitVec 8
  | .bufRd .. => 0x01
  | .bufWr .. => 0x02
  | .tcGetVersion => 0x20
  | .tcGetBypass => 0x21
  | .tcGetCtlcmd => 0x22
  | .tcGetScid => 0x23
  | .tcGetVcid => 0x24
  | .tcGetLength => 0x25
  | .tcGetSeq => 0x26
  | .tcGetSegFlags => 0x27
  | .tcGetMapid => 0x28
  | .tcGetPayloadLen .. => 0x29
  | .tcCopyPayload .. => 0x2A
  | .tcIsValid .. => 0x2B
  | .tmGetVersion .. => 0x30
  | .tmGetScid .. => 0x31
  | .tmGetVcid .. => 0x32
  | .tmGetOcfFlag .. => 0x33
  | .tmGetMcCount .. => 0x34
  | .tmGetVcCount .. => 0x35
  | .tmGetSechdrFlag .. => 0x36
  | .tmGetSyncFlag .. => 0x37
  | .tmGetPktOrderFlag .. => 0x38
  | .tmGetSegLenId .. => 0x39
  | .tmGetFhp .. => 0x3A
  | .tmGetSechdrLen .. => 0x3B
  | .tmGetGvcid .. => 0x3C
  | .tmGetMcid .. => 0x3D
  | .tmSetVersion .. => 0x40
  | .tmSetScid .. => 0x41
  | .tmSetVcid .. => 0x42
  | .tmSetOcfFlag .. => 0x43
  | .tmSetMcCount .. => 0x44
  | .tmSetVcCount .. => 0x45
  | .tmSetSechdrFlag .. => 0x46
  | .tmSetSyncFlag .. => 0x47
  | .tmSetPktOrderFlag .. => 0x48
  | .tmSetSegLenId .. => 0x49
  | .tmSetFhp .. => 0x4A
  | .tmSetSechdrLen .. => 0x4B
  | .tmSetSechdrData .. => 0x4C
  | .tmSetOcf .. => 0x4D
  | .tmUpdateFecf .. => 0x4E
  | .cop1InitClcw .. => 0x50
  | .cop1ProcessFrame .. => 0x51
  | .clcwGetCopEffect => 0x52
  | .clcwGetVcid => 0x53
  | .clcwRd => 0x54
  | .tcSyncGetFrame .. => 0x60
  | .tmSyncSynchronize .. => 0x70
  | .sdlpInitChannel .. => 0x80
  | .sdlpStartFrame .. => 0x81
  | .sdlpAddPacket .. => 0x82
  | .sdlpAddIdlePacket .. => 0x83
  | .sdlpAddVcaData .. => 0x84
  | .sdlpCompleteFrame .. => 0x85
  | .sdlpGetStatus .. => 0x86

/-- Field `ch` of a command's word: its channel operand, 0 where its rule names none (log 9). -/
def Instr.fieldCh : Instr → BitVec 8
  | .bufRd ch _ _ | .bufWr ch _ _ _ => ch
  | .tmGetVersion ch | .tmGetScid ch | .tmGetVcid ch | .tmGetOcfFlag ch | .tmGetMcCount ch | .tmGetVcCount ch
  | .tmGetSechdrFlag ch | .tmGetSyncFlag ch | .tmGetPktOrderFlag ch | .tmGetSegLenId ch | .tmGetFhp ch
  | .tmGetSechdrLen ch | .tmGetGvcid ch | .tmGetMcid ch => ch
  | .tmSetVersion ch _ | .tmSetScid ch _ | .tmSetVcid ch _ | .tmSetOcfFlag ch _ | .tmSetMcCount ch _
  | .tmSetVcCount ch _ | .tmSetSechdrFlag ch _ | .tmSetSyncFlag ch _ | .tmSetPktOrderFlag ch _
  | .tmSetSegLenId ch _ | .tmSetFhp ch _ | .tmSetSechdrLen ch _ | .tmSetSechdrData ch _ | .tmSetOcf ch _ _
  | .tmUpdateFecf ch _ => ch
  | .tmSyncSynchronize ch _ _ _ => ch
  | .sdlpInitChannel ch _ | .sdlpStartFrame ch | .sdlpAddPacket ch _ | .sdlpAddIdlePacket ch _
  | .sdlpAddVcaData ch _ | .sdlpCompleteFrame ch _ _ | .sdlpGetStatus ch _ => ch
  | .tcGetVersion | .tcGetBypass | .tcGetCtlcmd | .tcGetScid | .tcGetVcid | .tcGetLength | .tcGetSeq
  | .tcGetSegFlags | .tcGetMapid | .tcGetPayloadLen _ | .tcCopyPayload _ | .tcIsValid _ => 0
  | .cop1InitClcw _ | .cop1ProcessFrame _ _ | .clcwGetCopEffect | .clcwGetVcid | .clcwRd | .tcSyncGetFrame _ _ => 0

/-- Field `a` of a command's word (R54). -/
def Instr.fieldA : Instr → Half
  | .bufRd _ space _ | .bufWr _ space _ _ => space
  | .tmSetSechdrData _ len => len
  | .tmSetOcf _ off _ | .tmUpdateFecf _ off => off
  | .cop1ProcessFrame destAvail _ => 0#15 ++ BitVec.ofBool destAvail
  | .tcSyncGetFrame cltuLen _ => cltuLen
  | .tmSyncSynchronize _ asmLen _ _ => asmLen
  | .sdlpInitChannel _ cfg => cfg.frameLen
  | .sdlpAddPacket _ len | .sdlpAddIdlePacket _ len | .sdlpAddVcaData _ len => len
  | .sdlpCompleteFrame _ ocfPresent _ => 0#15 ++ BitVec.ofBool ocfPresent
  | .sdlpGetStatus _ selector => selector
  | .tcGetVersion | .tcGetBypass | .tcGetCtlcmd | .tcGetScid | .tcGetVcid | .tcGetLength | .tcGetSeq
  | .tcGetSegFlags | .tcGetMapid | .tcGetPayloadLen _ | .tcCopyPayload _ | .tcIsValid _ => 0
  | .tmGetVersion _ | .tmGetScid _ | .tmGetVcid _ | .tmGetOcfFlag _ | .tmGetMcCount _ | .tmGetVcCount _
  | .tmGetSechdrFlag _ | .tmGetSyncFlag _ | .tmGetPktOrderFlag _ | .tmGetSegLenId _ | .tmGetFhp _
  | .tmGetSechdrLen _ | .tmGetGvcid _ | .tmGetMcid _ => 0
  | .tmSetVersion .. | .tmSetScid .. | .tmSetVcid .. | .tmSetOcfFlag .. | .tmSetMcCount .. | .tmSetVcCount ..
  | .tmSetSechdrFlag .. | .tmSetSyncFlag .. | .tmSetPktOrderFlag .. | .tmSetSegLenId .. | .tmSetFhp ..
  | .tmSetSechdrLen .. => 0
  | .cop1InitClcw _ | .clcwGetCopEffect | .clcwGetVcid | .clcwRd | .sdlpStartFrame _ => 0

/-- `d` = `b : c` of a command's word (R50, R54). -/
def Instr.fieldD : Instr → Word
  | .bufRd _ _ addr => addr ++ 0#16
  | .bufWr _ _ addr octet => addr ++ (0#8 ++ octet)
  | .tcGetPayloadLen d | .tcCopyPayload d | .tcIsValid d | .cop1ProcessFrame _ d => d.word
  | .tmSetVersion _ v | .tmSetSegLenId _ v => 0#30 ++ v
  | .tmSetScid _ v => 0#22 ++ v
  | .tmSetVcid _ v => 0#29 ++ v
  | .tmSetMcCount _ v | .tmSetVcCount _ v => 0#24 ++ v
  | .tmSetOcfFlag _ v | .tmSetSechdrFlag _ v | .tmSetSyncFlag _ v | .tmSetPktOrderFlag _ v => 0#31 ++ BitVec.ofBool v
  | .tmSetFhp _ v => 0#21 ++ v
  | .tmSetSechdrLen _ len => 0#16 ++ len
  | .tmSetOcf _ _ ocf => ocf
  | .cop1InitClcw vcid => 0#26 ++ vcid
  | .tcSyncGetFrame _ derandomize => 0#31 ++ BitVec.ofBool derandomize
  | .tmSyncSynchronize _ _ frameLen randomize => frameLen ++ (0#15 ++ BitVec.ofBool randomize)
  | .sdlpInitChannel _ cfg => cfg.fieldB ++ cfg.fieldC
  | .sdlpCompleteFrame _ _ ocf => ocf
  | .tcGetVersion | .tcGetBypass | .tcGetCtlcmd | .tcGetScid | .tcGetVcid | .tcGetLength | .tcGetSeq
  | .tcGetSegFlags | .tcGetMapid => 0
  | .tmGetVersion _ | .tmGetScid _ | .tmGetVcid _ | .tmGetOcfFlag _ | .tmGetMcCount _ | .tmGetVcCount _
  | .tmGetSechdrFlag _ | .tmGetSyncFlag _ | .tmGetPktOrderFlag _ | .tmGetSegLenId _ | .tmGetFhp _
  | .tmGetSechdrLen _ | .tmGetGvcid _ | .tmGetMcid _ => 0
  | .tmSetSechdrData .. | .tmUpdateFecf .. | .clcwGetCopEffect | .clcwGetVcid | .clcwRd => 0
  | .sdlpStartFrame _ | .sdlpAddPacket .. | .sdlpAddIdlePacket .. | .sdlpAddVcaData .. | .sdlpGetStatus .. => 0

/-- The encoder: the word of a command by R50 and R54, every ignored bit 0 (log 9). -/
def encode (i : Instr) : Command :=
  i.opcode ++ i.fieldCh ++ i.fieldA ++ i.fieldD

/-- The command that the decoder reads from a table word of `nbits` bits, every bit above them 0; none where it
refuses. A command is one 64-bit word, so the table's bit numbers are the command word's (R50, R65). -/
def decodeTableWord (nbits w : Nat) : Option Instr :=
  match decode (BitVec.ofNat 64 (w % 2 ^ nbits)) with
  | .ok i => some i
  | .error _ => none

end Sys2Proof
end

