-- ==== Sys2Proof/Machine/State.lean ====
section
/-! DEFINITION. The state of the block (10_state.md), the reasons a step can stop, and the state after reset (R31). -/

namespace Sys2Proof.Machine

/-- One buffer memory (10_state.md R18): its octets as (address, octet) cells, addresses strictly rising, no cell
equal to what an unlisted address reads as. -/
abbrev Memory := List Host.Cell

/-- One entry of the segment FIFO `SEG[ch]` (R26). -/
structure Segment where
  /-- Octets of this segment still in the ring (16 bits). -/
  n : Half
  /-- Added by a packet command. -/
  isPacket : Bool
  /-- The first of these octets is not the first of the unit that was added. -/
  cont : Bool
  deriving DecidableEq, Repr

/-- One TM channel context, the document's `FrameInfo` (R20 to R26). -/
structure Channel where
  /-- `frame_len[ch]` (R20). -/
  frameLen : Half
  /-- `scid[ch]` (R20). -/
  scid : BitVec 10
  /-- `fecf_flag[ch]` (R20). -/
  fecfFlag : Bool
  /-- `vcid[ch]` (R20). -/
  vcid : BitVec 3
  /-- `ocf_flag[ch]` (R20). -/
  ocfFlag : Bool
  /-- `sechdr_flag[ch]` (R20). -/
  sechdrFlag : Bool
  /-- `sechdr_len[ch]` (R20). -/
  sechdrLen : BitVec 6
  /-- `svc[ch]` (R20): false = VCP, true = VCA. -/
  vca : Bool
  /-- `is_vc[ch]` (R20). -/
  isVc : Bool
  /-- `data_off[ch]` (R21). -/
  dataOff : Half
  /-- `data_len[ch]` (R21). -/
  dataLen : Half
  /-- `ocf_off[ch]` (R21). -/
  ocfOff : Half
  /-- `fecf_off[ch]` (R21). -/
  fecfOff : Half
  /-- `is_init[ch]` (R22). -/
  isInit : Bool
  /-- `is_ready[ch]` (R22). -/
  isReady : Bool
  /-- `fhp_set[ch]` (R22). -/
  fhpSet : Bool
  /-- `free[ch]` (R22). -/
  free : Half
  /-- `cur[ch]` (R22). -/
  cur : Half
  /-- `VCFC[ch]` (R23). -/
  vcfc : BitVec 8
  /-- `FRM[ch]` (R24). -/
  frm : Memory
  /-- `OVF[ch]` (R25). -/
  ovf : Memory
  /-- `ovf_head[ch]` (R25). -/
  ovfHead : Half
  /-- `ovf_free[ch]` (R25), 17 bits. -/
  ovfFree : BitVec 17
  /-- `SEG[ch]` (R26), oldest first. -/
  seg : List Segment
  deriving DecidableEq, Repr

/-- The CLCW register (R13), field by field with its spares; `Clcw.word` is the 32-bit word (30_encoding.md R56). -/
structure Clcw where
  /-- `CLCW[0][7]`. -/
  ctrlWordType : BitVec 1
  /-- `CLCW[0][6:5]`. -/
  version : BitVec 2
  /-- `CLCW[0][4:2]`. -/
  status : BitVec 3
  /-- `CLCW[0][1:0]`. -/
  copInEffect : BitVec 2
  /-- `CLCW[1][7:2]`. -/
  vcid : BitVec 6
  /-- `CLCW[1][1:0]`. -/
  spare1 : BitVec 2
  /-- `CLCW[2][7]`. -/
  noRF : Bool
  /-- `CLCW[2][6]`. -/
  noBitlock : Bool
  /-- `CLCW[2][5]`. -/
  lockout : Bool
  /-- `CLCW[2][4]`. -/
  wait : Bool
  /-- `CLCW[2][3]`. -/
  retransmit : Bool
  /-- `CLCW[2][2:1]`. -/
  farmB : BitVec 2
  /-- `CLCW[2][0]`. -/
  spare2 : BitVec 1
  /-- `CLCW[3]`, which is V(R). -/
  report : BitVec 8
  deriving DecidableEq, Repr

/-- What the host presents next at the block's ports (30_encoding.md R53; log 2). -/
inductive HostEvent where
  /-- A command word at the command port. -/
  | command (w : Command)
  /-- `rst` asserted (70_reset_and_hazards.md R270); `abandoned` is the command then in progress, if any. -/
  | reset (abandoned : Option Command)
  deriving DecidableEq, Repr

/-- The whole state of the block (R12 to R26), with the host's pending inputs and the capacities. -/
structure State where
  /-- The capacities of 00_scope.md R5; no step changes them (log 1). -/
  params : Params
  /-- What the host will present, first event first (the model's own field, log 2). -/
  hostIn : List HostEvent
  /-- `rsp_valid` of the response port (30_encoding.md R53, log 4). -/
  rspValid : Bool
  /-- `STATUS` (R12). -/
  status : BitVec 8
  /-- `RESULT` (R12). -/
  result : Word
  /-- `CLCW` (R13). -/
  clcw : Clcw
  /-- `tc_len` (R15). -/
  tcLen : Half
  /-- `pay_len` (R15). -/
  payLen : Half
  /-- `cadu_len` (R16). -/
  caduLen : Half
  /-- `MCFC` (R16). -/
  mcfc : BitVec 8
  /-- `CLTU` (R18). -/
  cltu : Memory
  /-- `TCBUF` (R18). -/
  tcbuf : Memory
  /-- `PAYBUF` (R18). -/
  paybuf : Memory
  /-- `INBUF` (R18). -/
  inbuf : Memory
  /-- `ASMBUF` (R18). -/
  asmbuf : Memory
  /-- `CADU` (R18). -/
  cadu : Memory
  /-- The channel contexts, `ch` = 0 first; their number is `N_TM_CHAN` (R20 to R26, log 1). -/
  chans : List Channel
  deriving DecidableEq, Repr

/-- Why a step can stop. The block itself never stops (60_exceptions.md R245): both reasons are raised only in states
that violate the invariants of 10_state.md R27, which no run from reset reaches. -/
inductive Fault where
  /-- Raised by SDLP_START_FRAME, SDLP_ADD_* and SDLP_COMPLETE_FRAME when the channel's registers point at octets
  beyond `FRM[ch]`, which do not exist (20_memory.md R36). Safe (log 7). -/
  | outOfBuffer
  /-- Raised by SDLP_START_FRAME when the ring holds octets that no `SEG` entry describes, against the precondition
  of 47_tm_sdlp.md R210. Safe (log 7). -/
  | segmentMissing
  deriving DecidableEq, Repr

/-- Why an instruction has no meaning. -/
inductive Refusal where
  /-- The instruction is not modelled; raised by no arm of `exec`, since every command has its meaning. Safe. -/
  | notModelled (mnemonic : String)
  deriving DecidableEq, Repr

/-- A channel context after reset (R31): registers 0, buffers `00`, an empty ring of `OVF_CAP` free octets. -/
def Channel.reset (p : Params) : Channel :=
  { frameLen := 0, scid := 0, fecfFlag := false, vcid := 0, ocfFlag := false, sechdrFlag := false, sechdrLen := 0,
    vca := false, isVc := false, dataOff := 0, dataLen := 0, ocfOff := 0, fecfOff := 0, isInit := false,
    isReady := false, fhpSet := false, free := 0, cur := 0, vcfc := 0, frm := [], ovf := [], ovfHead := 0,
    ovfFree := BitVec.ofNat 17 p.ovfCap, seg := [] }

/-- The CLCW after reset: all zeros, not the initialised value (R13, R31, 70_reset_and_hazards.md R273). -/
def Clcw.reset : Clcw :=
  { ctrlWordType := 0, version := 0, status := 0, copInEffect := 0, vcid := 0, spare1 := 0, noRF := false,
    noBitlock := false, lockout := false, wait := false, retransmit := false, farmB := 0, spare2 := 0, report := 0 }

/-- `ASMBUF` after reset: the default attached sync marker `1A CF FC 1D`, then `00` (R18, R31). -/
def asmbufReset : Memory := [(0, 0x1A#8), (1, 0xCF#8), (2, 0xFC#8), (3, 0x1D#8)]

/-- The state after reset of a block with capacities `p` and `n` channels (R31, 70_reset_and_hazards.md R270). -/
def State.resetOf (p : Params) (n : Nat) : State :=
  { params := p, hostIn := [], rspValid := false, status := 0, result := 0, clcw := Clcw.reset, tcLen := 0, payLen := 0,
    caduLen := 0, mcfc := 0, cltu := [], tcbuf := [], paybuf := [], inbuf := [], asmbuf := asmbufReset, cadu := [],
    chans := List.replicate n (Channel.reset p) }

/-- The machine right after reset (R31), with the default capacities and channel count of 00_scope.md R5. -/
def State.reset : State := State.resetOf Config.defaultParams Config.defaultChannels

end Sys2Proof.Machine
end

