-- ==== Sys2Proof/Machine/Ops.lean ====
section
/-! DEFINITION. The operations every command is made of: reading and writing octets of a buffer (20_memory.md), the
response a command ends with (30_encoding.md R52; an error is a response too, 60_exceptions.md R245), the channel
check (R51), and the ports between commands. -/

namespace Sys2Proof.Machine

/-! ### Octets of a buffer -/

/-- `BUF[a]` (00_scope.md R8); an unlisted octet reads `00`. -/
def Memory.read : Memory → Nat → Octet
  | [], _ => Config.unlistedOctet
  | (k, v) :: m, a => if k = a then v else Memory.read m a

/-- Puts a cell before the first cell of a higher address. -/
def Memory.insertCell (a : Nat) (v : Octet) : Memory → Memory
  | [] => [(a, v)]
  | (k, x) :: m => if a < k then (a, v) :: (k, x) :: m else (k, x) :: Memory.insertCell a v m

/-- `BUF[a] <- v` (R8): the old cell goes; a cell is listed again unless `v` is what an unlisted octet reads as. -/
def Memory.write (m : Memory) (a : Nat) (v : Octet) : Memory :=
  if v = Config.unlistedOctet then m.filter (fun c => c.1 != a)
  else Memory.insertCell a v (m.filter (fun c => c.1 != a))

/-- `MemRead(BUF, a, n)` (R8): `n` octets, lowest address first. -/
def Memory.readBytes (m : Memory) (a n : Nat) : List Octet :=
  (List.range n).map (fun i => m.read (a + i))

/-- `MemWrite(BUF, a, n, v)` (R8). -/
def Memory.writeBytes (m : Memory) (a : Nat) : List Octet → Memory
  | [] => m
  | b :: bs => Memory.writeBytes (m.write a b) (a + 1) bs

/-- `n` octets of a ring of `cap` octets, from index `h` on, with wraparound (10_state.md R25). -/
def Memory.readRing (m : Memory) (cap h n : Nat) : List Octet :=
  (List.range n).map (fun i => m.read ((h + i) % cap))

/-- Octets into a ring of `cap` octets, from index `t` on, with wraparound (R25, 47_tm_sdlp.md R212). -/
def Memory.writeRing (m : Memory) (cap t : Nat) : List Octet → Memory
  | [] => m
  | b :: bs => Memory.writeRing (m.write (t % cap) b) cap (t + 1) bs

/-- Every octet `00` (47_tm_sdlp.md R207 clears `FRM[ch]` and `OVF[ch]` so). -/
def Memory.cleared : Memory := []

/-- The canonical form from address `lo` up: addresses strictly rising, no cell equal to an unlisted octet. -/
def Memory.wfFrom : Nat → Memory → Bool
  | _, [] => true
  | lo, (k, v) :: m => lo ≤ k && v != Config.unlistedOctet && Memory.wfFrom (k + 1) m

/-- The canonical form of a buffer memory. -/
def Memory.wf (m : Memory) : Bool := Memory.wfFrom 0 m

/-- No cell lies at or beyond the capacity (20_memory.md R36). -/
def Memory.within (m : Memory) (cap : Nat) : Bool := m.all (fun c => c.1 < cap)

/-- The four octets of a 32-bit operand, most significant first (20_memory.md R37). -/
def wordOctets (d : Word) : List Octet :=
  [d.extractLsb' 24 8, d.extractLsb' 16 8, d.extractLsb' 8 8, d.extractLsb' 0 8]

/-! ### Statuses and responses -/

/-- The status names of 60_exceptions.md R246. -/
inductive Status where
  | ok
  | invalidArgument
  | invalidFrame
  | farm1Violation
  | invalidSecondaryHeader
  | invalidLength
  | frameNotInitialized
  | frameNotReady
  | overflowFull
  | invalidCltu
  | invalidAsmSize
  | genericError
  | illegalOp
  deriving DecidableEq, Repr

/-- The codes of R246. -/
def statusCode : Status → BitVec 8
  | .ok => 0x00
  | .invalidArgument => 0x01
  | .invalidFrame => 0x02
  | .farm1Violation => 0x03
  | .invalidSecondaryHeader => 0x04
  | .invalidLength => 0x05
  | .frameNotInitialized => 0x06
  | .frameNotReady => 0x07
  | .overflowFull => 0x08
  | .invalidCltu => 0x09
  | .invalidAsmSize => 0x0A
  | .genericError => 0x0B
  | .illegalOp => 0x0C

/-- What a step of the block answers. -/
abbrev Result := Host.Outcome State Fault Refusal

/-- The response `(st, v)`: latched in `STATUS` and `RESULT`, presented once at the response port (30_encoding.md
R52, R53; 10_state.md R12). -/
def State.respond (s : State) (st : Status) (v : Word) : State :=
  { s with status := statusCode st, result := v, rspValid := true }

/-- `return (OK, v)` (00_scope.md R8). -/
def done (s : State) (v : Word) : Result := .next (s.respond .ok v)

/-- `raise S` (00_scope.md R8): what takes the place of an exception here, an error response of value 0 after which
the block accepts the next command (60_exceptions.md R245, R248). `s` is the state the command leaves. -/
def raise (s : State) (st : Status) : Result := .next (s.respond st 0)

/-! ### Channel contexts -/

/-- `N_TM_CHAN` (00_scope.md R5): how many channel contexts the block holds. -/
def State.nTmChan (s : State) : Nat := s.chans.length

/-- The channel check that precedes every other check of a command that uses `ch`: `ch >= N_TM_CHAN` ends with
`InvalidArgument` (30_encoding.md R51). -/
def withChannel (s : State) (ch : BitVec 8) (k : Channel → Result) : Result :=
  match s.chans[ch.toNat]? with
  | none => raise s .invalidArgument
  | some c => k c

/-- Channel context `ch` replaced. -/
def State.setChannel (s : State) (ch : BitVec 8) (c : Channel) : State :=
  { s with chans := s.chans.set ch.toNat c }

/-! ### The ports -/

/-- `rsp[39:0]`: status in `[39:32]`, value in `[31:0]` (30_encoding.md R52). -/
def State.rsp (s : State) : BitVec 40 := s.status ++ s.result

/-- `cmd_ready` between two commands: the block is ready (R53, 70_reset_and_hazards.md R270; log 5). -/
def State.cmdReady (_ : State) : Bool := true

/-- No command is presented: nothing happens in the block (60_exceptions.md R255), and the response of the last
command, presented once, is no longer presented (30_encoding.md R53; log 4). -/
def State.idle (s : State) : State := { s with rspValid := false }

/-- `rst` (70_reset_and_hazards.md R270): every piece of state at its reset value; a command in progress leaves
nothing. What the host presents next stays with the host. -/
def State.resetPulse (s : State) : State :=
  { State.resetOf s.params s.nTmChan with hostIn := s.hostIn }

/-- The host's inputs after the one that is taken now. -/
def State.withHostIn (s : State) (h : List HostEvent) : State := { s with hostIn := h }

/-- A command word with a reserved `op`: the response `(IllegalOp, 0)` (60_exceptions.md R252). -/
def illegalCommand (s : State) (e : DecodeError) : Result :=
  match e with
  | .illegalOp _ => raise s .illegalOp

end Sys2Proof.Machine
end

