-- ==== Sys2Proof/Machine/Flags.lean ====
section
/-! DEFINITION. The flags of the block (10_state.md R14): the FARM-1 flags and counters of the CLCW, and the sliding
window that decides them (44_cop1_farm1.md R160 to R169). -/

namespace Sys2Proof.Machine

/-- The CLCW as a 32-bit number `CLCW[0] : CLCW[1] : CLCW[2] : CLCW[3]` (30_encoding.md R56). -/
def Clcw.word (c : Clcw) : Word :=
  c.ctrlWordType ++ c.version ++ c.status ++ c.copInEffect ++ c.vcid ++ c.spare1 ++ BitVec.ofBool c.noRF ++
    BitVec.ofBool c.noBitlock ++ BitVec.ofBool c.lockout ++ BitVec.ofBool c.wait ++ BitVec.ofBool c.retransmit ++
    c.farmB ++ c.spare2 ++ c.report

/-- `clcw_out`, continuously the CLCW (R53). -/
def State.clcwOut (s : State) : Word := s.clcw.word

/-- The CLCW that COP1_INIT_CLCW writes: all zero but the COP in effect, 1, and the virtual channel id (R156). -/
def Clcw.initialised (vcid : BitVec 6) : Clcw := { Clcw.reset with copInEffect := 1, vcid := vcid }

/-- `farmB <- (farmB + 1) mod 4` (R160, R162, R165). -/
def Clcw.countFarmB (c : Clcw) : Clcw := { c with farmB := c.farmB + 1 }

/-- UNLOCK: all three flags cleared, the FARM-B counter incremented (R160). -/
def Clcw.unlock (c : Clcw) : Clcw :=
  { c with retransmit := false, wait := false, lockout := false, farmB := c.farmB + 1 }

/-- SET-V(R) accepted: `retransmit` and `wait` cleared, the commanded V(R), the FARM-B counter incremented (R162). -/
def Clcw.setVr (c : Clcw) (vr : BitVec 8) : Clcw :=
  { c with retransmit := false, wait := false, report := vr, farmB := c.farmB + 1 }

/-- A sequence-controlled frame accepted: `wait` and `retransmit` cleared, V(R) incremented mod 256 (R168). -/
def Clcw.accept (c : Clcw) : Clcw := { c with wait := false, retransmit := false, report := c.report + 1 }

/-- No destination for an acceptable frame: `wait` and `retransmit` set (R168). -/
def Clcw.backpressure (c : Clcw) : Clcw := { c with wait := true, retransmit := true }

/-- POSITIVE window: `retransmit` set (R169). -/
def Clcw.requestRetransmit (c : Clcw) : Clcw := { c with retransmit := true }

/-- LOCKOUT area: `lockout` set (R169). -/
def Clcw.lockOut (c : Clcw) : Clcw := { c with lockout := true }

/-- The three FARM-1 states (R157). -/
inductive FarmState where
  | opened
  | waiting
  | lockedOut
  deriving DecidableEq, Repr

/-- The FARM-1 state that the flags encode (R157). -/
def Clcw.farmState (c : Clcw) : FarmState :=
  if c.lockout then .lockedOut else if c.wait then .waiting else .opened

/-- The classes of the sliding window (R163). -/
inductive SeqClass where
  | pass
  | positive
  | negative
  | lockout
  deriving DecidableEq, Repr

/-- `in_range(lo, v, hi)` on octets, wrapping when `hi < lo` (R163). -/
def inRange (lo v hi : BitVec 8) : Bool :=
  if lo ≤ hi then lo ≤ v && v ≤ hi else lo ≤ v || v ≤ hi

/-- `classify(N(S), V(R))`, the tests in the document's order; octet arithmetic is mod 256 (R163). -/
def classify (ns vr : BitVec 8) : SeqClass :=
  if ns = vr then .pass
  else if inRange vr ns (vr + 62) then .positive
  else if inRange (vr - 63) ns (vr - 1) then .negative
  else .lockout

end Sys2Proof.Machine
end

