-- ==== Sys2Proof/Machine/Operands.lean ====
section
/-! DEFINITION. What a command's operands reach: the buffer spaces (20_memory.md R35), the fields of the TC header in
`TCBUF` (30_encoding.md R57, 42_tctf.md) and of the TM header in `FRM[ch]` (30_encoding.md R58, R59, 43_tmtf.md). -/

namespace Sys2Proof.Machine

/-! ### Buffer spaces -/

/-- The host-addressable buffer spaces (R35). -/
inductive Space where
  | cltu
  | tcbuf
  | paybuf
  | inbuf
  | asmbuf
  | cadu
  | frm
  deriving DecidableEq, Repr

/-- The space of a space id; ids above 6 do not exist (R35). -/
def spaceOfId (id : Half) : Option Space :=
  match id.toNat with
  | 0 => some .cltu
  | 1 => some .tcbuf
  | 2 => some .paybuf
  | 3 => some .inbuf
  | 4 => some .asmbuf
  | 5 => some .cadu
  | 6 => some .frm
  | _ => none

/-- The host may write every space but `PAYBUF` and `CADU` (R35, 40_host_access.md R77). -/
def spaceHostWritable : Space → Bool
  | .paybuf => false
  | .cadu => false
  | .cltu | .tcbuf | .inbuf | .asmbuf | .frm => true

/-- The size of a space (R35). -/
def spaceSize (p : Params) : Space → Nat
  | .cltu => p.cltuCap
  | .tcbuf => p.tcbufCap
  | .paybuf => Params.paybufCap
  | .inbuf => p.inbufCap
  | .asmbuf => p.asmCap
  | .cadu => p.caduCap
  | .frm => p.frameCap

/-- The buffer a space id selects; `ch` counts for `FRM` only, and must be a channel of the block there (40_host_access.md
R75). -/
def State.spaceBuffer (s : State) (ch : BitVec 8) : Space → Option Memory
  | .cltu => some s.cltu
  | .tcbuf => some s.tcbuf
  | .paybuf => some s.paybuf
  | .inbuf => some s.inbuf
  | .asmbuf => some s.asmbuf
  | .cadu => some s.cadu
  | .frm => (s.chans[ch.toNat]?).map (·.frm)

/-- The state with the buffer of a space replaced. -/
def State.setSpaceBuffer (s : State) (ch : BitVec 8) (m : Memory) : Space → State
  | .cltu => { s with cltu := m }
  | .tcbuf => { s with tcbuf := m }
  | .paybuf => { s with paybuf := m }
  | .inbuf => { s with inbuf := m }
  | .asmbuf => { s with asmbuf := m }
  | .cadu => { s with cadu := m }
  | .frm => { s with chans := s.chans.modify ch.toNat (fun c => { c with frm := m }) }

/-! ### The TC header in `TCBUF` (R57) -/

/-- `H[0][7:6]` (42_tctf.md R97). -/
def tcVersion (h : Memory) : BitVec 2 := (h.read 0).extractLsb' 6 2

/-- `H[0][5]`, the bypass flag (R98). -/
def tcBypass (h : Memory) : Bool := (h.read 0).getLsbD 5

/-- `H[0][4]`, the control-command flag (R99). -/
def tcCtlCmd (h : Memory) : Bool := (h.read 0).getLsbD 4

/-- `H[0][3:2] : H[1]`, the spacecraft id (R100). -/
def tcScid (h : Memory) : BitVec 10 := (h.read 0).extractLsb' 2 2 ++ h.read 1

/-- `H[2][7:2]`, the virtual channel id (R102). -/
def tcVcid (h : Memory) : BitVec 6 := (h.read 2).extractLsb' 2 6

/-- The 10-bit length field `H[2][1:0] : H[3]` (R57). -/
def tcLengthField (h : Memory) : BitVec 10 := (h.read 2).extractLsb' 0 2 ++ h.read 3

/-- The frame length: the length field plus one (R101). -/
def tcLength (h : Memory) : Nat := (tcLengthField h).toNat + 1

/-- `H[4]`, N(S) (R103). -/
def tcSeq (h : Memory) : BitVec 8 := h.read 4

/-- The "no segment header" sentinel (00_scope.md R6). -/
def noSegmentHeader : BitVec 8 := 255

/-- The sequence flags `H[5][7:6]`, or the sentinel for a control frame (R104). -/
def tcSegFlags (h : Memory) : BitVec 8 :=
  if tcCtlCmd h then noSegmentHeader else ((h.read 5).extractLsb' 6 2).setWidth 8

/-- The MAP id `H[5][5:0]`, or the sentinel for a control frame (R105). -/
def tcMapId (h : Memory) : BitVec 8 :=
  if tcCtlCmd h then noSegmentHeader else ((h.read 5).extractLsb' 0 6).setWidth 8

/-- The offset of the payload: primary header, and the segment header if the service has one (R107). -/
def tcPayloadOffset (d : ServiceDescriptor) : Nat := 5 + (if d.hasSeg then 1 else 0)

/-- The octets of a frame that are not payload (R106). -/
def tcOverhead (d : ServiceDescriptor) : Nat := tcPayloadOffset d + (if d.hasFecf then 2 else 0)

/-- The payload length, 0 for a frame shorter than its overhead (R106). -/
def tcPayloadLen (h : Memory) (d : ServiceDescriptor) : Nat :=
  if tcOverhead d ≤ tcLength h then tcLength h - tcOverhead d else 0

/-- The payload octets (R107). -/
def tcPayload (h : Memory) (d : ServiceDescriptor) : List Octet :=
  h.readBytes (tcPayloadOffset d) (tcPayloadLen h d)

/-- Version and spacecraft id match (R108). -/
def tcIdsOk (h : Memory) (d : ServiceDescriptor) : Bool := tcVersion h == d.version && tcScid h == d.scid

/-- The channel clause by service type (R108): MCF examines nothing, ACCESS the vcid, NONACCESS vcid and MAP id; no
frame is valid for the reserved type. -/
def tcChannelOk (h : Memory) (d : ServiceDescriptor) : Bool :=
  match d.svcType with
  | .mcf => true
  | .access => tcVcid h == d.vcid
  | .nonAccess => tcVcid h == d.vcid && tcMapId h == d.mapid
  | .reserved => false

/-- A control command without bypass, the illegal combination (R108, 30_encoding.md R62). -/
def tcIllegal (h : Memory) : Bool := tcCtlCmd h && !tcBypass h

/-- `is_valid` (R108). -/
def tcValid (h : Memory) (d : ServiceDescriptor) : Bool := tcIdsOk h d && tcChannelOk h d && !tcIllegal h

/-- `copy_payload` (R107): `PAYBUF` and `pay_len`; octets of `PAYBUF` beyond the payload keep their content. -/
def State.copyPayload (s : State) (d : ServiceDescriptor) : State :=
  { s with paybuf := s.paybuf.writeBytes 0 (tcPayload s.tcbuf d), payLen := BitVec.ofNat 16 (tcPayloadLen s.tcbuf d) }

/-! ### The TM header in `FRM[ch]` (R58), reading -/

/-- `F[0][7:6]` (43_tmtf.md R117). -/
def tmVersion (f : Memory) : BitVec 2 := (f.read 0).extractLsb' 6 2

/-- `F[0][5:0] : F[1][7:4]` (R118). -/
def tmScid (f : Memory) : BitVec 10 := (f.read 0).extractLsb' 0 6 ++ (f.read 1).extractLsb' 4 4

/-- `F[1][3:1]` (R119). -/
def tmVcid (f : Memory) : BitVec 3 := (f.read 1).extractLsb' 1 3

/-- `F[1][0]` (R120). -/
def tmOcfFlag (f : Memory) : Bool := (f.read 1).getLsbD 0

/-- `F[2]` (R121). -/
def tmMcCount (f : Memory) : Octet := f.read 2

/-- `F[3]` (R122). -/
def tmVcCount (f : Memory) : Octet := f.read 3

/-- `F[4][7]` (R123). -/
def tmSechdrFlag (f : Memory) : Bool := (f.read 4).getLsbD 7

/-- `F[4][6]` (R124). -/
def tmSyncFlag (f : Memory) : Bool := (f.read 4).getLsbD 6

/-- `F[4][5]` (R125). -/
def tmPktOrderFlag (f : Memory) : Bool := (f.read 4).getLsbD 5

/-- `F[4][4:3]` (R126). -/
def tmSegLenId (f : Memory) : BitVec 2 := (f.read 4).extractLsb' 3 2

/-- `F[4][2:0] : F[5]` (R127). -/
def tmFhp (f : Memory) : BitVec 11 := (f.read 4).extractLsb' 0 3 ++ f.read 5

/-- `F[6][5:0]` (R128). -/
def tmSechdrLen (f : Memory) : BitVec 6 := (f.read 6).extractLsb' 0 6

/-- version : scid : vcid (R129). -/
def tmGvcid (f : Memory) : BitVec 15 := tmVersion f ++ tmScid f ++ tmVcid f

/-- version : scid (R130). -/
def tmMcid (f : Memory) : BitVec 12 := tmVersion f ++ tmScid f

/-! ### The TM header, writing: the operation part of the setters, `tm_set_<field>(F, v)` (43_tmtf.md R115) -/

/-- One bit at bit 0 of an octet. -/
def bitOctet (v : Bool) : Octet := (BitVec.ofBool v).setWidth 8

/-- R131. -/
def tmSetVersion (f : Memory) (v : BitVec 2) : Memory :=
  f.write 0 ((f.read 0 &&& 0x3F) ||| (v.setWidth 8 <<< 6))

/-- R132. -/
def tmSetScid (f : Memory) (v : BitVec 10) : Memory :=
  (f.write 0 ((f.read 0 &&& 0xC0) ||| (v.extractLsb' 4 6).setWidth 8)).write 1
    ((f.read 1 &&& 0x0F) ||| ((v.extractLsb' 0 4).setWidth 8 <<< 4))

/-- R133. -/
def tmSetVcid (f : Memory) (v : BitVec 3) : Memory :=
  f.write 1 ((f.read 1 &&& 0xF1) ||| (v.setWidth 8 <<< 1))

/-- R134. -/
def tmSetOcfFlag (f : Memory) (v : Bool) : Memory :=
  f.write 1 ((f.read 1 &&& 0xFE) ||| bitOctet v)

/-- R135. -/
def tmSetMcCount (f : Memory) (v : Octet) : Memory := f.write 2 v

/-- R136. -/
def tmSetVcCount (f : Memory) (v : Octet) : Memory := f.write 3 v

/-- R137. -/
def tmSetSechdrFlag (f : Memory) (v : Bool) : Memory :=
  f.write 4 ((f.read 4 &&& 0x7F) ||| (bitOctet v <<< 7))

/-- The octet `F[4]` after TM_SET_SYNC_FLAG: bit 6 is `v`; with `v` 0 the packet-order flag is 0 and the
segment-length id `11` (R138). -/
def syncFlagOctet (x : Octet) (v : Bool) : Octet :=
  let y := (x &&& 0xBF) ||| (bitOctet v <<< 6)
  if v then y else (y &&& 0xC7) ||| 0x18

/-- R138. -/
def tmSetSyncFlag (f : Memory) (v : Bool) : Memory := f.write 4 (syncFlagOctet (f.read 4) v)

/-- R139. -/
def tmSetPktOrderFlag (f : Memory) (v : Bool) : Memory :=
  f.write 4 ((f.read 4 &&& 0xDF) ||| (bitOctet v <<< 5))

/-- R140. -/
def tmSetSegLenId (f : Memory) (v : BitVec 2) : Memory :=
  f.write 4 ((f.read 4 &&& 0xE7) ||| (v.setWidth 8 <<< 3))

/-- R141. -/
def tmSetFhp (f : Memory) (v : BitVec 11) : Memory :=
  (f.write 4 ((f.read 4 &&& 0xF8) ||| (v.extractLsb' 8 3).setWidth 8)).write 5 (v.extractLsb' 0 8)

/-- The octet at the secondary header's identification position: the stored length, bits 7:6 zero (R142). -/
def tmSetSechdrLen (f : Memory) (len : BitVec 6) : Memory := f.write 6 (len.setWidth 8)

/-- The secondary header data, from offset 7 on (R143). -/
def tmSetSechdrData (f : Memory) (data : List Octet) : Memory := f.writeBytes 7 data

/-- The four OCF octets at an offset, first octet first (R144, 20_memory.md R37). -/
def tmSetOcf (f : Memory) (off : Nat) (ocf : Word) : Memory := f.writeBytes off (wordOctets ocf)

/-- The "no first header pointer" sentinel (00_scope.md R6). -/
def noFirstHeaderPointer : BitVec 11 := 0x7FF

end Sys2Proof.Machine
end

