-- ==== Sys2Proof/Machine/Cop1.lean ====
section
/-! DEFINITION. COP-1 / FARM-1 and the CLCW (44_cop1_farm1.md). COP1_PROCESS_FRAME is the one command that changes state
on some error returns (R158, 60_exceptions.md R249). -/

namespace Sys2Proof.Machine

/-- The CLCW replaced. -/
def State.setClcw (s : State) (c : Clcw) : State := { s with clcw := c }

/-- COP1_INIT_CLCW (R156). -/
def execCop1InitClcw (vcid : BitVec 6) (s : State) : Result := done (s.setClcw (Clcw.initialised vcid)) 0

/-- The control commands (30_encoding.md R62, R161). -/
inductive ControlCommand where
  | unlock
  | setVr
  | unrecognised
  deriving DecidableEq, Repr

/-- Control command decoding by the octets at offsets 5 and 6 (R161). -/
def controlCommand (h : Memory) : ControlCommand :=
  if h.read 5 = 0x00 then .unlock
  else if h.read 5 = 0x82 ∧ h.read 6 = 0x00 then .setVr
  else .unrecognised

/-- The control command path (R160, R162, R164). SET-V(R) in Lockout is rejected with the FARM-B counter incremented;
an unrecognised command changes nothing. -/
def processControl (s : State) : Result :=
  match controlCommand s.tcbuf with
  | .unlock => done (s.setClcw s.clcw.unlock) 0
  | .setVr =>
    if s.clcw.lockout then raise (s.setClcw s.clcw.countFarmB) .farm1Violation
    else done (s.setClcw (s.clcw.setVr (s.tcbuf.read 7))) 0
  | .unrecognised => raise s .farm1Violation

/-- The bypass data path (R165): accepted in every FARM-1 state; copied if there is a destination. -/
def processBypassData (destAvail : Bool) (d : ServiceDescriptor) (s : State) : Result :=
  if destAvail then
    done ((s.setClcw s.clcw.countFarmB).copyPayload d) (BitVec.ofNat 32 (tcPayloadLen s.tcbuf d))
  else done (s.setClcw s.clcw.countFarmB) 0

/-- The sequence-controlled path (R167 to R169): the lockout test precedes the classification. -/
def processSequenced (destAvail : Bool) (d : ServiceDescriptor) (s : State) : Result :=
  if s.clcw.lockout then raise s .farm1Violation
  else
    match classify (tcSeq s.tcbuf) s.clcw.report with
    | .pass =>
      if destAvail then
        done ((s.setClcw s.clcw.accept).copyPayload d) (BitVec.ofNat 32 (tcPayloadLen s.tcbuf d))
      else raise (s.setClcw s.clcw.backpressure) .invalidArgument
    | .positive => raise (s.setClcw s.clcw.requestRetransmit) .farm1Violation
    | .negative => raise s .farm1Violation
    | .lockout => raise (s.setClcw s.clcw.lockOut) .farm1Violation

/-- COP1_PROCESS_FRAME (R158): validity (R159), then the path of the frame's class (30_encoding.md R62). -/
def execCop1ProcessFrame (destAvail : Bool) (d : ServiceDescriptor) (s : State) : Result :=
  if !tcValid s.tcbuf d then raise s .invalidFrame
  else if tcBypass s.tcbuf then
    if tcCtlCmd s.tcbuf then processControl s else processBypassData destAvail d s
  else processSequenced destAvail d s

/-- CLCW_GET_COP_EFFECT (R171). -/
def execClcwGetCopEffect (s : State) : Result := done s (s.clcw.copInEffect.setWidth 32)

/-- CLCW_GET_VCID (R172). -/
def execClcwGetVcid (s : State) : Result := done s (s.clcw.vcid.setWidth 32)

/-- CLCW_RD (R173). -/
def execClcwRd (s : State) : Result := done s s.clcw.word

end Sys2Proof.Machine
end

