-- ==== Sys2Proof/Machine/HostAccess.lean ====
section
/-! DEFINITION. Host access to the buffer spaces: BUF_RD and BUF_WR (40_host_access.md). -/

namespace Sys2Proof.Machine

/-- BUF_RD (R75): space, channel and address checks, then the octet. -/
def execBufRd (ch : BitVec 8) (space addr : Half) (s : State) : Result :=
  match spaceOfId space with
  | none => raise s .invalidArgument
  | some sp =>
    match s.spaceBuffer ch sp with
    | none => raise s .invalidArgument
    | some m =>
      if spaceSize s.params sp ≤ addr.toNat then raise s .invalidArgument
      else done s ((m.read addr.toNat).setWidth 32)

/-- BUF_WR (R76): the checks of BUF_RD and the host's right to write the space, then one octet stored. -/
def execBufWr (ch : BitVec 8) (space addr : Half) (octet : Octet) (s : State) : Result :=
  match spaceOfId space with
  | none => raise s .invalidArgument
  | some sp =>
    if !spaceHostWritable sp then raise s .invalidArgument
    else
      match s.spaceBuffer ch sp with
      | none => raise s .invalidArgument
      | some m =>
        if spaceSize s.params sp ≤ addr.toNat then raise s .invalidArgument
        else done (s.setSpaceBuffer ch (m.write addr.toNat octet) sp) 0

end Sys2Proof.Machine
end

