-- ==== Sys2Proof/Machine/Crc.lean ====
section
/-! DEFINITION. The CRC-16 table, the register step and the trailer update (41_prbs_crc.md R84 to R87). -/

namespace Sys2Proof.Machine

/-- One bit of polynomial division, MSB first, the leading coefficient implicit (R84). -/
def crcShift (poly r : BitVec 16) : BitVec 16 :=
  if r.getLsbD 15 then (r <<< 1) ^^^ poly else r <<< 1

/-- Entry `v` of `crc16_table(poly)` (R84): eight division steps from `v << 8`. -/
def crcTableEntry (poly : BitVec 16) (v : Octet) : BitVec 16 :=
  (List.range 8).foldl (fun r _ => crcShift poly r) (v.setWidth 16 <<< 8)

/-- `crc16_table(poly)`: 256 words (R84). -/
def crc16Table (poly : BitVec 16) : List (BitVec 16) :=
  (List.range 256).map (fun v => crcTableEntry poly (BitVec.ofNat 8 v))

/-- `CRCTAB[v]` of `CRCTAB = crc16_table(0x1021)` (R84, 10_state.md R17). -/
def crctab (v : Octet) : BitVec 16 := crcTableEntry 0x1021 v

/-- The CRC register step of one octet (R86): the octet enters at the low end, the entry of the octet shifted out is
exclusive-ored in. -/
def crcStep (crc : BitVec 16) (x : Octet) : BitVec 16 :=
  ((crc <<< 8) ||| x.setWidth 16) ^^^ crctab (crc.extractLsb' 8 8)

/-- The same step bit by bit, MSB of the octet first (R86). -/
def crcStepSerial (crc : BitVec 16) (x : Octet) : BitVec 16 :=
  (List.range 8).foldl (fun r j =>
    let shifted := (r <<< 1) ||| (BitVec.ofBool (x.getLsbD (7 - j))).setWidth 16
    if r.getLsbD 15 then shifted ^^^ 0x1021 else shifted) crc

/-- The CRC register after a list of octets, from `0xFFFF` (R87). -/
def crcOf (bs : List Octet) : BitVec 16 := bs.foldl crcStep 0xFFFF

/-- Both octets of the trailer at `off` zeroed (R87). -/
def zeroTrailer (m : Memory) (off : Nat) : Memory := (m.write off 0).write (off + 1) 0

/-- The CRC of octets `0 .. off + 1` with the trailer zeroed (R87). -/
def trailerCrc (m : Memory) (off : Nat) : BitVec 16 := crcOf ((zeroTrailer m off).readBytes 0 (off + 2))

/-- The bounds of `update_crc` (R87): `off` at least the TM primary header size, the trailer inside the buffer. -/
def crcBoundsOk (off cap : Nat) : Bool := 6 ≤ off && off + 2 ≤ cap

/-- `update_crc(BUF, off)` once its bounds hold (R87): the trailer zeroed, then the CRC big-endian in it. -/
def updateCrc (m : Memory) (off : Nat) : Memory :=
  ((zeroTrailer m off).write off ((trailerCrc m off).extractLsb' 8 8)).write (off + 1)
    ((trailerCrc m off).extractLsb' 0 8)

end Sys2Proof.Machine
end

