-- ==== Sys2Proof/Machine/Sdlp.lean ====
section
/-! DEFINITION. TM_SDLP, the frame-assembly engine with its spill ring (47_tm_sdlp.md). The operations on one channel
context come first, then the seven commands. -/

namespace Sys2Proof.Machine

/-! ### Layout and initialisation -/

/-- `hdr`: primary and secondary header octets (R206). -/
def headerLen (g : ChannelConfig) : Nat := 6 + (if g.sechdr then g.sechdrLen.toNat + 1 else 0)

/-- `trail`: OCF and error-control octets (R206). -/
def trailerLen (g : ChannelConfig) : Nat := (if g.ocf then 4 else 0) + (if g.fecf then 2 else 0)

/-- `data_len` (R206). -/
def layoutDataLen (g : ChannelConfig) : Nat := g.frameLen.toNat - headerLen g - trailerLen g

/-- `fecf_off` (R206). -/
def layoutFecfOff (g : ChannelConfig) : Nat := if g.fecf then g.frameLen.toNat - 2 else 0

/-- `ocf_off` (R206). -/
def layoutOcfOff (g : ChannelConfig) : Nat :=
  if g.ocf then g.frameLen.toNat - 4 - (if g.fecf then 2 else 0) else 0

/-- The checks of SDLP_INIT_CHANNEL in order: the status of the first that fails (R207). -/
def initCheck (p : Params) (g : ChannelConfig) : Option Status :=
  if g.sechdr && g.sechdrLen == 0 then some .invalidLength
  else if !g.sechdr && g.sechdrLen != 0 then some .invalidSecondaryHeader
  else if p.frameCap < g.frameLen.toNat then some .invalidLength
  else if g.frameLen.toNat < headerLen g + trailerLen g + 1 then some .invalidLength
  else none

/-- The fixed header fields that initialisation writes into the cleared frame buffer (R207, R208). -/
def initHeader (g : ChannelConfig) : Memory :=
  let f := tmSetOcfFlag (tmSetVcid (tmSetScid (tmSetVersion Memory.cleared 1) g.scid) g.vcid) g.ocf
  let f := if g.sechdr then tmSetSechdrLen (tmSetSechdrFlag f true) g.sechdrLen else f
  tmSetSyncFlag f g.vca

/-- The channel context that a successful SDLP_INIT_CHANNEL leaves (R207): every register written, both buffers
cleared. -/
def initialisedChannel (p : Params) (g : ChannelConfig) : Channel :=
  { frameLen := g.frameLen, scid := g.scid, fecfFlag := g.fecf, vcid := g.vcid, ocfFlag := g.ocf,
    sechdrFlag := g.sechdr, sechdrLen := g.sechdrLen, vca := g.vca, isVc := g.isVc,
    dataOff := BitVec.ofNat 16 (headerLen g), dataLen := BitVec.ofNat 16 (layoutDataLen g),
    ocfOff := BitVec.ofNat 16 (layoutOcfOff g), fecfOff := BitVec.ofNat 16 (layoutFecfOff g),
    isInit := true, isReady := false, fhpSet := false,
    free := BitVec.ofNat 16 (layoutDataLen g), cur := BitVec.ofNat 16 (headerLen g), vcfc := 0,
    frm := initHeader g, ovf := Memory.cleared, ovfHead := 0, ovfFree := BitVec.ofNat 17 p.ovfCap, seg := [] }

/-! ### The ring and the frame under assembly -/

/-- `ovf_count`: octets stored in the ring (10_state.md R25). -/
def Channel.ovfCount (p : Params) (c : Channel) : Nat := p.ovfCap - c.ovfFree.toNat

/-- `ovf_tail`: where the next octet is appended (R25). -/
def Channel.ovfTail (p : Params) (c : Channel) : Nat := (c.ovfHead.toNat + c.ovfCount p) % p.ovfCap

/-- `partial`: the mid-packet fragment at the head of the ring (R26, R218). -/
def Channel.partialOctets (c : Channel) : Nat :=
  match c.seg with
  | g :: _ => if g.cont then g.n.toNat else 0
  | [] => 0

/-- `set_fhp_if_needed()` (R211): the first header pointer is the write cursor relative to the data field, once a
cycle. -/
def Channel.setFhpIfNeeded (c : Channel) : Channel :=
  if c.fhpSet then c
  else { c with frm := tmSetFhp c.frm (BitVec.ofNat 11 (c.cur.toNat - c.dataOff.toNat)), fhpSet := true }

/-- Octets into the frame at the write cursor (R210, R212). -/
def Channel.place (c : Channel) (bs : List Octet) : Channel :=
  { c with frm := c.frm.writeBytes c.cur.toNat bs, cur := BitVec.ofNat 16 (c.cur.toNat + bs.length),
           free := BitVec.ofNat 16 (c.free.toNat - bs.length) }

/-- `n` octets placed at the write cursor would leave the frame buffer: they do not exist (20_memory.md R36; log 7). -/
def Channel.overruns (p : Params) (c : Channel) (n : Nat) : Bool := p.frameCap < c.cur.toNat + n

/-- The head `n` octets leave the ring (R210). -/
def Channel.dropFromRing (p : Params) (c : Channel) (n : Nat) : Channel :=
  { c with ovfHead := BitVec.ofNat 16 ((c.ovfHead.toNat + n) % p.ovfCap),
           ovfFree := BitVec.ofNat 17 (c.ovfFree.toNat + n) }

/-- How much of the head segment fits the frame: `min(sn, free)` (R210). -/
def Channel.segmentFit (c : Channel) (g : Segment) : Nat := min g.n.toNat c.free.toNat

/-- `copy_from_overflow()` but for the segment FIFO (R210): the head segment `g`, or as much as fits, from the ring into
the frame; the first header pointer is set if a whole packet starts here. -/
def Channel.copyFromOverflow (p : Params) (c : Channel) (g : Segment) : Channel :=
  let start := if g.isPacket && !g.cont then c.setFhpIfNeeded else c
  (start.place (c.ovf.readRing p.ovfCap c.ovfHead.toNat (c.segmentFit g))).dropFromRing p (c.segmentFit g)

/-- What is left of a segment of which `n` octets went into a frame: a mid-packet fragment (R210). -/
def Segment.rest (g : Segment) (n : Nat) : Segment := { g with n := BitVec.ofNat 16 (g.n.toNat - n), cont := true }

/-- The refill loop of SDLP_START_FRAME over the segment FIFO (R209, R210): while the ring holds octets and the frame has
room. A segment that does not fit whole fills the frame, which ends the loop. -/
def Channel.refill (p : Params) : List Segment → Channel → Except Fault Channel
  | [], c => if 0 < c.ovfCount p ∧ 0 < c.free.toNat then .error .segmentMissing else .ok { c with seg := [] }
  | g :: rest, c =>
    if c.ovfCount p = 0 ∨ c.free.toNat = 0 then .ok { c with seg := g :: rest }
    else if c.overruns p (c.segmentFit g) then .error .outOfBuffer
    else if c.segmentFit g = g.n.toNat then Channel.refill p rest (c.copyFromOverflow p g)
    else .ok { c.copyFromOverflow p g with seg := g.rest (c.segmentFit g) :: rest }

/-- The part of a unit that did not fit, onto the tail of the ring with its segment (R212); nothing when all fitted. -/
def Channel.spill (p : Params) (c : Channel) (bs : List Octet) (isPacket cont : Bool) : Channel :=
  if bs.length = 0 then c
  else
    { c with ovf := c.ovf.writeRing p.ovfCap (c.ovfTail p) bs,
             ovfFree := BitVec.ofNat 17 (c.ovfFree.toNat - bs.length),
             seg := c.seg ++ [{ n := BitVec.ofNat 16 bs.length, isPacket := isPacket, cont := cont }] }

/-- A unit of `len` octets of `INBUF` added (R212), its first `min(len, free)` octets to the frame, the rest to the
ring. -/
def Channel.addUnit (p : Params) (c : Channel) (inbuf : Memory) (len : Nat) (isPacket : Bool) : Channel :=
  let n := min len c.free.toNat
  let start := if isPacket && 0 < n then c.setFhpIfNeeded else c
  (start.place (inbuf.readBytes 0 n)).spill p (inbuf.readBytes n (len - n)) isPacket (0 < n)

/-- `add_data(len, is_packet)`, the body of the three add commands (R212): checks in order, then the unit; the value is
the number of octets that entered the frame. -/
def addData (ch : BitVec 8) (len : Half) (isPacket : Bool) (s : State) : Result :=
  withChannel s ch fun c =>
    if !c.isInit then raise s .frameNotInitialized
    else if !c.isReady then raise s .frameNotReady
    else if len.toNat = 0 ∨ s.params.inbufCap < len.toNat then raise s .invalidArgument
    else if c.ovfFree.toNat < len.toNat - min len.toNat c.free.toNat then raise s .overflowFull
    else if c.overruns s.params (min len.toNat c.free.toNat) then .fault .outOfBuffer
    else done (s.setChannel ch (c.addUnit s.params s.inbuf len.toNat isPacket))
      (BitVec.ofNat 32 (min len.toNat c.free.toNat))

/-! ### Completing a frame -/

/-- The OCF and error-control offsets lie in the frame buffer (R206 guarantees it; log 7). -/
def Channel.trailersFit (p : Params) (c : Channel) : Bool :=
  (!c.ocfFlag || c.ocfOff.toNat + 4 ≤ p.frameCap) && (!c.fecfFlag || crcBoundsOk c.fecfOff.toNat p.frameCap)

/-- The counters written into the header: `F[2]` always, `F[3]` for a virtual channel; `mc` and `vc` are the counts
already incremented (R222). -/
def writeCounts (f : Memory) (isVc : Bool) (mc vc : BitVec 8) : Memory :=
  if isVc then tmSetVcCount (tmSetMcCount f mc) vc else tmSetMcCount f mc

/-- The frame that SDLP_COMPLETE_FRAME leaves (R222): counters, pointer sentinel, OCF, and the error-control field last,
since it covers them all. -/
def Channel.completedFrame (c : Channel) (mc : BitVec 8) (ocf : Word) : Memory :=
  let f := writeCounts c.frm c.isVc mc (c.vcfc + 1)
  let f := if c.fhpSet then f else tmSetFhp f noFirstHeaderPointer
  let f := if c.ocfFlag then tmSetOcf f c.ocfOff.toNat ocf else f
  if c.fecfFlag then updateCrc f c.fecfOff.toNat else f

/-- The channel context after SDLP_COMPLETE_FRAME, ready for a new cycle (R222). -/
def Channel.complete (c : Channel) (mc : BitVec 8) (ocf : Word) : Channel :=
  { c with frm := c.completedFrame mc ocf, vcfc := if c.isVc then c.vcfc + 1 else c.vcfc, free := c.dataLen,
           cur := c.dataOff, fhpSet := false, isReady := false }

/-- `MCFC` replaced (R222). -/
def State.setMcfc (s : State) (v : BitVec 8) : State := { s with mcfc := v }

/-! ### The commands -/

/-- SDLP_INIT_CHANNEL (R207): all checks before any write. -/
def execSdlpInitChannel (ch : BitVec 8) (cfg : ChannelConfig) (s : State) : Result :=
  withChannel s ch fun _ =>
    match initCheck s.params cfg with
    | some st => raise s st
    | none => done (s.setChannel ch (initialisedChannel s.params cfg)) 0

/-- SDLP_START_FRAME (R209): Ready, then the refill from the ring. -/
def execSdlpStartFrame (ch : BitVec 8) (s : State) : Result :=
  withChannel s ch fun c =>
    if !c.isInit then raise s .frameNotInitialized
    else
      match Channel.refill s.params c.seg { c with isReady := true } with
      | .error e => .fault e
      | .ok c' => done (s.setChannel ch c') 0

/-- SDLP_ADD_PACKET (R213). -/
def execSdlpAddPacket (ch : BitVec 8) (len : Half) (s : State) : Result := addData ch len true s

/-- SDLP_ADD_IDLE_PACKET (R214): as SDLP_ADD_PACKET. -/
def execSdlpAddIdlePacket (ch : BitVec 8) (len : Half) (s : State) : Result := addData ch len true s

/-- SDLP_ADD_VCA_DATA (R215): the first header pointer is never set. -/
def execSdlpAddVcaData (ch : BitVec 8) (len : Half) (s : State) : Result := addData ch len false s

/-- SDLP_COMPLETE_FRAME (R222): allowed in the Initialized state too (R205). -/
def execSdlpCompleteFrame (ch : BitVec 8) (ocfPresent : Bool) (ocf : Word) (s : State) : Result :=
  withChannel s ch fun c =>
    if !c.isInit then raise s .frameNotInitialized
    else if c.ocfFlag && !ocfPresent then raise s .invalidArgument
    else if !c.trailersFit s.params then .fault .outOfBuffer
    else done ((s.setMcfc (s.mcfc + 1)).setChannel ch (c.complete (s.mcfc + 1) ocf)) (c.frameLen.setWidth 32)

/-- The flags word of selector 0 (R227): bit 0 `is_init`, bit 1 `is_ready`, bit 2 `fhp_set`. -/
def Channel.flagsWord (c : Channel) : Word :=
  (BitVec.ofBool c.fhpSet ++ BitVec.ofBool c.isReady ++ BitVec.ofBool c.isInit : BitVec 3).setWidth 32

/-- The value of a selector; selectors above 13 do not exist (R227). -/
def statusValue (p : Params) (mcfc : BitVec 8) (c : Channel) (selector : Nat) : Option Word :=
  match selector with
  | 0 => some c.flagsWord
  | 1 => some (c.free.setWidth 32)
  | 2 => some (c.cur.setWidth 32)
  | 3 => some (c.dataOff.setWidth 32)
  | 4 => some (c.dataLen.setWidth 32)
  | 5 => some (c.ocfOff.setWidth 32)
  | 6 => some (c.fecfOff.setWidth 32)
  | 7 => some (c.ovfFree.setWidth 32)
  | 8 => some (BitVec.ofNat 32 c.partialOctets)
  | 9 => some (BitVec.ofNat 32 (c.ovfCount p))
  | 10 => some (mcfc.setWidth 32)
  | 11 => some (c.vcfc.setWidth 32)
  | 12 => some (BitVec.ofNat 32 c.seg.length)
  | 13 => some (c.frameLen.setWidth 32)
  | _ => none

/-- SDLP_GET_STATUS (R227). -/
def execSdlpGetStatus (ch : BitVec 8) (selector : Half) (s : State) : Result :=
  withChannel s ch fun c =>
    match statusValue s.params s.mcfc c selector.toNat with
    | none => raise s .invalidArgument
    | some v => done s v

end Sys2Proof.Machine
end

