-- ==== Sys2Proof/Machine/Prbs.lean ====
section
/-! DEFINITION. The PRBS generator, its two constant tables and the XOR (de)whitener (41_prbs_crc.md R80 to R85). -/

namespace Sys2Proof.Machine

/-- `bitrev8` (00_scope.md R7): bit i goes to bit 7 - i. -/
def bitrev8 (v : Octet) : Octet := v.reverse

/-- `parity8` (R7): the exclusive-or of the 8 bits. -/
def parity8 (v : Octet) : Bool :=
  (List.range 8).foldl (fun p j => p ^^ v.getLsbD j) false

/-- One shift of the 8-bit Fibonacci register (R80): toward bit 0, the feedback entering at bit 7. -/
def lfsrShift (poly reg : Octet) : Octet :=
  (reg >>> 1) ||| ((BitVec.ofBool (parity8 (reg &&& poly))).setWidth 8 <<< 7)

/-- `n` iterations of `generate_prbs` from iteration `i` on: the octets stored, at each `i` that 8 divides, before the
shift of that iteration (R80). -/
def prbsStores (poly : Octet) : Nat → Nat → Octet → List Octet
  | _, 0, _ => []
  | i, n + 1, reg =>
    if i % 8 = 0 then bitrev8 reg :: prbsStores poly (i + 1) n (lfsrShift poly reg)
    else prbsStores poly (i + 1) n (lfsrShift poly reg)

/-- `generate_prbs(poly, seed)`: 249 iterations, 32 stores (R80). -/
def generatePrbs (poly seed : Octet) : List Octet := prbsStores poly 0 249 seed

/-- `PRBS_TC` (10_state.md R17), which is `generate_prbs(0x5F, 0xFF)`. -/
def prbsTc : List Octet :=
  [0xFF, 0x39, 0x9E, 0x5A, 0x68, 0xE9, 0x06, 0xF5, 0x6C, 0x89, 0x2F, 0xA1, 0x31, 0x5E, 0x08, 0xC0,
   0x52, 0xA8, 0xBB, 0xAE, 0x4E, 0xC2, 0xC7, 0xED, 0x66, 0xDC, 0x38, 0xD4, 0xF8, 0x86, 0x50, 0x3D]

/-- `PRBS_TM` (R17), which is `generate_prbs(0xA9, 0xFF)`. -/
def prbsTm : List Octet :=
  [0xFF, 0x48, 0x0E, 0xC0, 0x9A, 0x0D, 0x70, 0xBC, 0x8E, 0x2C, 0x93, 0xAD, 0xA7, 0xB7, 0x46, 0xCE,
   0x5A, 0x97, 0x7D, 0xCC, 0x32, 0xA2, 0xBF, 0x3E, 0x0A, 0x10, 0xF1, 0x88, 0x94, 0xCD, 0xEA, 0xB1]

/-- `bit(k)` of a table, earliest bit in the most significant position of its octet (R82). -/
def prbsBit (seq : List Octet) (k : Nat) : Bool := (seq.getD (k / 8) 0).getLsbD (7 - k % 8)

/-- `window(seq, i)`: eight bits of the 255-bit cyclic sequence from bit `(8 i) mod 255` on, the first in the most
significant position (R82). -/
def prbsWindow (seq : List Octet) (i : Nat) : Octet :=
  (List.range 8).foldl (fun w j => (w <<< 1) ||| (BitVec.ofBool (prbsBit seq ((8 * i + j) % 255))).setWidth 8) 0

/-- The same window as a two-octet table lookup, the datapath form (R83). -/
def prbsWindowLookup (seq : List Octet) (i : Nat) : Octet :=
  let off := (8 * i) % 255
  let b := off / 8
  let s := off % 8
  if s = 0 then seq.getD b 0
  else if b < 31 then (seq.getD b 0 <<< s) ||| (seq.getD (b + 1) 0 >>> (8 - s))
  else (seq.getD 31 0 <<< s) ||| ((seq.getD 0 0 <<< 1) >>> (8 - s))

/-- `xor_with_prbs` (R85) on octets whose first has sequence index `i`. -/
def xorPrbsFrom (seq : List Octet) (i : Nat) : List Octet → List Octet
  | [] => []
  | b :: bs => (b ^^^ prbsWindow seq i) :: xorPrbsFrom seq (i + 1) bs

/-- `xor_with_prbs(x, seq)` (R85): the index counts from the first octet, always from 0. -/
def xorWithPrbs (bs seq : List Octet) : List Octet := xorPrbsFrom seq 0 bs

end Sys2Proof.Machine
end

