-- ==== Sys2Proof/Machine/TcSync.lean ====
section
/-! DEFINITION. TC_SYNC, from a CLTU to a TC transfer frame (45_tc_sync.md). -/

namespace Sys2Proof.Machine

/-- The start sequence `EB 90` (R185). -/
def startSequence : List Octet := [0xEB, 0x90]

/-- The tail sequence (R185). -/
def tailSequence : List Octet := [0xC5, 0xC5, 0xC5, 0xC5, 0xC5, 0xC5, 0xC5, 0x79]

/-- The whole 8-octet code blocks among the first `n` octets of a CLTU, at offsets `2 + 8k` (30_encoding.md R60); a
trailing partial block is none (R189). -/
def codeBlocks (cltu : Memory) (n : Nat) : List (List Octet) :=
  (List.range ((n - 2) / 8)).map (fun k => cltu.readBytes (2 + 8 * k) 8)

/-- The loop of R187 over the code blocks: the tail ends it, the tail test preceding the overflow test; of a data block
the 7 data octets are copied and the parity octet is skipped (R186); without a tail the CLTU is exhausted. -/
def extractFrame (cap : Nat) : List (List Octet) → List Octet → Except Status (List Octet)
  | [], _ => .error .invalidCltu
  | b :: bs, out =>
    if b = tailSequence then .ok out
    else if cap < out.length + 7 then .error .invalidLength
    else extractFrame cap bs (out ++ b.take 7)

/-- The assembled frame, derandomised with `PRBS_TC` if asked (R187). -/
def tcFrameOctets (derandomize : Bool) (t : List Octet) : List Octet :=
  if derandomize then xorWithPrbs t prbsTc else t

/-- The frame committed to `TCBUF` and `tc_len` (R187). -/
def State.commitTcFrame (s : State) (t : List Octet) : State :=
  { s with tcbuf := s.tcbuf.writeBytes 0 t, tcLen := BitVec.ofNat 16 t.length }

/-- TC_SYNC_GET_FRAME (R187): nothing is written unless the tail is found. -/
def execTcSyncGetFrame (cltuLen : Half) (derandomize : Bool) (s : State) : Result :=
  if s.params.cltuCap < cltuLen.toNat then raise s .invalidArgument
  else if cltuLen.toNat < 2 ∨ s.cltu.readBytes 0 2 ≠ startSequence then raise s .invalidCltu
  else
    match extractFrame s.params.tcbufCap (codeBlocks s.cltu cltuLen.toNat) [] with
    | .error st => raise s st
    | .ok t => done (s.commitTcFrame (tcFrameOctets derandomize t)) (BitVec.ofNat 32 t.length)

end Sys2Proof.Machine
end

