-- ==== Sys2Proof/Machine/Tctf.lean ====
section
/-! DEFINITION. TCTF, the TC transfer-frame codec (42_tctf.md): total commands over the frame in `TCBUF` (R95, R96). -/

namespace Sys2Proof.Machine

/-- TC_GET_VERSION (R97). -/
def execTcGetVersion (s : State) : Result := done s ((tcVersion s.tcbuf).setWidth 32)

/-- TC_GET_BYPASS (R98). -/
def execTcGetBypass (s : State) : Result := done s ((BitVec.ofBool (tcBypass s.tcbuf)).setWidth 32)

/-- TC_GET_CTLCMD (R99). -/
def execTcGetCtlcmd (s : State) : Result := done s ((BitVec.ofBool (tcCtlCmd s.tcbuf)).setWidth 32)

/-- TC_GET_SCID (R100). -/
def execTcGetScid (s : State) : Result := done s ((tcScid s.tcbuf).setWidth 32)

/-- TC_GET_VCID (R102). -/
def execTcGetVcid (s : State) : Result := done s ((tcVcid s.tcbuf).setWidth 32)

/-- TC_GET_LENGTH (R101). -/
def execTcGetLength (s : State) : Result := done s (BitVec.ofNat 32 (tcLength s.tcbuf))

/-- TC_GET_SEQ (R103). -/
def execTcGetSeq (s : State) : Result := done s ((tcSeq s.tcbuf).setWidth 32)

/-- TC_GET_SEG_FLAGS (R104). -/
def execTcGetSegFlags (s : State) : Result := done s ((tcSegFlags s.tcbuf).setWidth 32)

/-- TC_GET_MAPID (R105). -/
def execTcGetMapid (s : State) : Result := done s ((tcMapId s.tcbuf).setWidth 32)

/-- TC_GET_PAYLOAD_LEN (R106). -/
def execTcGetPayloadLen (d : ServiceDescriptor) (s : State) : Result :=
  done s (BitVec.ofNat 32 (tcPayloadLen s.tcbuf d))

/-- TC_COPY_PAYLOAD (R107). -/
def execTcCopyPayload (d : ServiceDescriptor) (s : State) : Result :=
  done (s.copyPayload d) (BitVec.ofNat 32 (tcPayloadLen s.tcbuf d))

/-- TC_IS_VALID (R108): the validity as a value, not a status. -/
def execTcIsValid (d : ServiceDescriptor) (s : State) : Result :=
  done s ((BitVec.ofBool (tcValid s.tcbuf d)).setWidth 32)

end Sys2Proof.Machine
end

