-- ==== Sys2Proof/Machine/TmSync.lean ====
section
/-! DEFINITION. TM_SYNC, from a TM transfer frame to a CADU (46_tm_sync.md). -/

namespace Sys2Proof.Machine

/-- The marker length is acceptable: even, at least 4, within `ASMBUF` (R196, R197). -/
def asmLenOk (p : Params) (al : Nat) : Bool := al % 2 == 0 && 4 ≤ al && al ≤ p.asmCap

/-- The octets of the CADU: the marker unchanged, then the frame, randomised with `PRBS_TM` if asked (R196,
30_encoding.md R61). -/
def caduOctets (asm frame : Memory) (al fl : Nat) (randomize : Bool) : List Octet :=
  asm.readBytes 0 al ++
    (if randomize then xorWithPrbs (frame.readBytes 0 fl) prbsTm else frame.readBytes 0 fl)

/-- The CADU and `cadu_len` written (R196). -/
def State.setCadu (s : State) (bs : List Octet) : State :=
  { s with cadu := s.cadu.writeBytes 0 bs, caduLen := BitVec.ofNat 16 bs.length }

/-- TM_SYNC_SYNCHRONIZE (R196): channel, marker and frame-length checks in this order; `FRM[ch]` is not modified. -/
def execTmSyncSynchronize (ch : BitVec 8) (asmLen frameLen : Half) (randomize : Bool) (s : State) : Result :=
  withChannel s ch fun c =>
    if !asmLenOk s.params asmLen.toNat then raise s .invalidAsmSize
    else if frameLen.toNat = 0 ∨ s.params.frameCap < frameLen.toNat then raise s .invalidArgument
    else done (s.setCadu (caduOctets s.asmbuf c.frm asmLen.toNat frameLen.toNat randomize))
      (BitVec.ofNat 32 (asmLen.toNat + frameLen.toNat))

end Sys2Proof.Machine
end

