-- ==== Sys2Proof/Machine/TmtfGet.lean ====
section
/-! DEFINITION. TMTF getters, TM_GET_* (43_tmtf.md R117 to R130): each reads `FRM[ch]` in every state of the channel. -/

namespace Sys2Proof.Machine

/-- The common body of the getters: the channel check, then a value of the frame buffer (R115). -/
def tmGet (ch : BitVec 8) (value : Memory → Word) (s : State) : Result :=
  withChannel s ch fun c => done s (value c.frm)

/-- TM_GET_VERSION (R117). -/
def execTmGetVersion (ch : BitVec 8) (s : State) : Result :=
  tmGet ch (fun f => (tmVersion f).setWidth 32) s

/-- TM_GET_SCID (R118). -/
def execTmGetScid (ch : BitVec 8) (s : State) : Result :=
  tmGet ch (fun f => (tmScid f).setWidth 32) s

/-- TM_GET_VCID (R119). -/
def execTmGetVcid (ch : BitVec 8) (s : State) : Result :=
  tmGet ch (fun f => (tmVcid f).setWidth 32) s

/-- TM_GET_OCF_FLAG (R120). -/
def execTmGetOcfFlag (ch : BitVec 8) (s : State) : Result :=
  tmGet ch (fun f => (BitVec.ofBool (tmOcfFlag f)).setWidth 32) s

/-- TM_GET_MC_COUNT (R121). -/
def execTmGetMcCount (ch : BitVec 8) (s : State) : Result :=
  tmGet ch (fun f => (tmMcCount f).setWidth 32) s

/-- TM_GET_VC_COUNT (R122). -/
def execTmGetVcCount (ch : BitVec 8) (s : State) : Result :=
  tmGet ch (fun f => (tmVcCount f).setWidth 32) s

/-- TM_GET_SECHDR_FLAG (R123). -/
def execTmGetSechdrFlag (ch : BitVec 8) (s : State) : Result :=
  tmGet ch (fun f => (BitVec.ofBool (tmSechdrFlag f)).setWidth 32) s

/-- TM_GET_SYNC_FLAG (R124). -/
def execTmGetSyncFlag (ch : BitVec 8) (s : State) : Result :=
  tmGet ch (fun f => (BitVec.ofBool (tmSyncFlag f)).setWidth 32) s

/-- TM_GET_PKT_ORDER_FLAG (R125). -/
def execTmGetPktOrderFlag (ch : BitVec 8) (s : State) : Result :=
  tmGet ch (fun f => (BitVec.ofBool (tmPktOrderFlag f)).setWidth 32) s

/-- TM_GET_SEG_LEN_ID (R126). -/
def execTmGetSegLenId (ch : BitVec 8) (s : State) : Result :=
  tmGet ch (fun f => (tmSegLenId f).setWidth 32) s

/-- TM_GET_FHP (R127). -/
def execTmGetFhp (ch : BitVec 8) (s : State) : Result :=
  tmGet ch (fun f => (tmFhp f).setWidth 32) s

/-- TM_GET_SECHDR_LEN (R128). -/
def execTmGetSechdrLen (ch : BitVec 8) (s : State) : Result :=
  tmGet ch (fun f => (tmSechdrLen f).setWidth 32) s

/-- TM_GET_GVCID (R129). -/
def execTmGetGvcid (ch : BitVec 8) (s : State) : Result :=
  tmGet ch (fun f => (tmGvcid f).setWidth 32) s

/-- TM_GET_MCID (R130). -/
def execTmGetMcid (ch : BitVec 8) (s : State) : Result :=
  tmGet ch (fun f => (tmMcid f).setWidth 32) s

end Sys2Proof.Machine
end

