-- ==== Sys2Proof/Machine/TmtfSet.lean ====
section
/-! DEFINITION. TMTF setters and helpers, TM_SET_* and TM_UPDATE_FECF (43_tmtf.md R131 to R145): each writes octets of
`FRM[ch]` and no register, in every state of the channel (R115). -/

namespace Sys2Proof.Machine

/-- The state with the frame buffer of channel `ch`, whose context is `c`, replaced. -/
def State.setFrame (s : State) (ch : BitVec 8) (c : Channel) (f : Memory) : State :=
  s.setChannel ch { c with frm := f }

/-- The common body of the field setters: the channel check, then the frame buffer with one field written (R115). -/
def tmSet (ch : BitVec 8) (put : Memory → Memory) (s : State) : Result :=
  withChannel s ch fun c => done (s.setFrame ch c (put c.frm)) 0

/-- TM_SET_VERSION (R131). -/
def execTmSetVersion (ch : BitVec 8) (v : BitVec 2) (s : State) : Result :=
  tmSet ch (fun f => tmSetVersion f v) s

/-- TM_SET_SCID (R132). -/
def execTmSetScid (ch : BitVec 8) (v : BitVec 10) (s : State) : Result :=
  tmSet ch (fun f => tmSetScid f v) s

/-- TM_SET_VCID (R133). -/
def execTmSetVcid (ch : BitVec 8) (v : BitVec 3) (s : State) : Result :=
  tmSet ch (fun f => tmSetVcid f v) s

/-- TM_SET_OCF_FLAG (R134). -/
def execTmSetOcfFlag (ch : BitVec 8) (v : Bool) (s : State) : Result :=
  tmSet ch (fun f => tmSetOcfFlag f v) s

/-- TM_SET_MC_COUNT (R135). -/
def execTmSetMcCount (ch : BitVec 8) (v : Octet) (s : State) : Result :=
  tmSet ch (fun f => tmSetMcCount f v) s

/-- TM_SET_VC_COUNT (R136). -/
def execTmSetVcCount (ch : BitVec 8) (v : Octet) (s : State) : Result :=
  tmSet ch (fun f => tmSetVcCount f v) s

/-- TM_SET_SECHDR_FLAG (R137). -/
def execTmSetSechdrFlag (ch : BitVec 8) (v : Bool) (s : State) : Result :=
  tmSet ch (fun f => tmSetSechdrFlag f v) s

/-- TM_SET_SYNC_FLAG (R138). -/
def execTmSetSyncFlag (ch : BitVec 8) (v : Bool) (s : State) : Result :=
  tmSet ch (fun f => tmSetSyncFlag f v) s

/-- TM_SET_PKT_ORDER_FLAG (R139). -/
def execTmSetPktOrderFlag (ch : BitVec 8) (v : Bool) (s : State) : Result :=
  tmSet ch (fun f => tmSetPktOrderFlag f v) s

/-- TM_SET_SEG_LEN_ID (R140). -/
def execTmSetSegLenId (ch : BitVec 8) (v : BitVec 2) (s : State) : Result :=
  tmSet ch (fun f => tmSetSegLenId f v) s

/-- TM_SET_FHP (R141). -/
def execTmSetFhp (ch : BitVec 8) (v : BitVec 11) (s : State) : Result :=
  tmSet ch (fun f => tmSetFhp f v) s

/-- TM_SET_SECHDR_LEN (R142): all 16 bits of the length are tested, after the flag in the frame. -/
def execTmSetSechdrLen (ch : BitVec 8) (len : Half) (s : State) : Result :=
  withChannel s ch fun c =>
    if !tmSechdrFlag c.frm then raise s .invalidSecondaryHeader
    else if len.toNat = 0 ∨ 63 < len.toNat then raise s .invalidLength
    else done (s.setFrame ch c (tmSetSechdrLen c.frm (len.setWidth 6))) 0

/-- TM_SET_SECHDR_DATA (R143): at most the stored length, from `INBUF` to offset 7. -/
def execTmSetSechdrData (ch : BitVec 8) (len : Half) (s : State) : Result :=
  withChannel s ch fun c =>
    if !tmSechdrFlag c.frm then raise s .invalidSecondaryHeader
    else if len.toNat = 0 ∨ (tmSechdrLen c.frm).toNat < len.toNat then raise s .invalidLength
    else done (s.setFrame ch c (tmSetSechdrData c.frm (s.inbuf.readBytes 0 len.toNat))) 0

/-- TM_SET_OCF (R144): the flag in the frame, then the upper bound; no lower bound. -/
def execTmSetOcf (ch : BitVec 8) (off : Half) (ocf : Word) (s : State) : Result :=
  withChannel s ch fun c =>
    if !tmOcfFlag c.frm then raise s .genericError
    else if s.params.frameCap < off.toNat + 4 then raise s .invalidLength
    else done (s.setFrame ch c (tmSetOcf c.frm off.toNat ocf)) 0

/-- TM_UPDATE_FECF (R145): `update_crc` with `cap = FRAME_CAP` (41_prbs_crc.md R87). -/
def execTmUpdateFecf (ch : BitVec 8) (off : Half) (s : State) : Result :=
  withChannel s ch fun c =>
    if !crcBoundsOk off.toNat s.params.frameCap then raise s .invalidLength
    else done (s.setFrame ch c (updateCrc c.frm off.toNat)) 0

end Sys2Proof.Machine
end

