-- ==== Sys2Proof/Machine/Dispatch.lean ====
section
/-! DEFINITION. exec: one arm per command, each one call of its meaning. -/

namespace Sys2Proof.Machine

def exec (i : Instr) (s : State) : Host.Outcome State Fault Refusal :=
  match i with
  | .bufRd ch space addr => Sys2Proof.Machine.execBufRd ch space addr s
  | .bufWr ch space addr octet => Sys2Proof.Machine.execBufWr ch space addr octet s
  | .tcGetVersion => Sys2Proof.Machine.execTcGetVersion s
  | .tcGetBypass => Sys2Proof.Machine.execTcGetBypass s
  | .tcGetCtlcmd => Sys2Proof.Machine.execTcGetCtlcmd s
  | .tcGetScid => Sys2Proof.Machine.execTcGetScid s
  | .tcGetVcid => Sys2Proof.Machine.execTcGetVcid s
  | .tcGetLength => Sys2Proof.Machine.execTcGetLength s
  | .tcGetSeq => Sys2Proof.Machine.execTcGetSeq s
  | .tcGetSegFlags => Sys2Proof.Machine.execTcGetSegFlags s
  | .tcGetMapid => Sys2Proof.Machine.execTcGetMapid s
  | .tcGetPayloadLen d => Sys2Proof.Machine.execTcGetPayloadLen d s
  | .tcCopyPayload d => Sys2Proof.Machine.execTcCopyPayload d s
  | .tcIsValid d => Sys2Proof.Machine.execTcIsValid d s
  | .tmGetVersion ch => Sys2Proof.Machine.execTmGetVersion ch s
  | .tmGetScid ch => Sys2Proof.Machine.execTmGetScid ch s
  | .tmGetVcid ch => Sys2Proof.Machine.execTmGetVcid ch s
  | .tmGetOcfFlag ch => Sys2Proof.Machine.execTmGetOcfFlag ch s
  | .tmGetMcCount ch => Sys2Proof.Machine.execTmGetMcCount ch s
  | .tmGetVcCount ch => Sys2Proof.Machine.execTmGetVcCount ch s
  | .tmGetSechdrFlag ch => Sys2Proof.Machine.execTmGetSechdrFlag ch s
  | .tmGetSyncFlag ch => Sys2Proof.Machine.execTmGetSyncFlag ch s
  | .tmGetPktOrderFlag ch => Sys2Proof.Machine.execTmGetPktOrderFlag ch s
  | .tmGetSegLenId ch => Sys2Proof.Machine.execTmGetSegLenId ch s
  | .tmGetFhp ch => Sys2Proof.Machine.execTmGetFhp ch s
  | .tmGetSechdrLen ch => Sys2Proof.Machine.execTmGetSechdrLen ch s
  | .tmGetGvcid ch => Sys2Proof.Machine.execTmGetGvcid ch s
  | .tmGetMcid ch => Sys2Proof.Machine.execTmGetMcid ch s
  | .tmSetVersion ch v => Sys2Proof.Machine.execTmSetVersion ch v s
  | .tmSetScid ch v => Sys2Proof.Machine.execTmSetScid ch v s
  | .tmSetVcid ch v => Sys2Proof.Machine.execTmSetVcid ch v s
  | .tmSetOcfFlag ch v => Sys2Proof.Machine.execTmSetOcfFlag ch v s
  | .tmSetMcCount ch v => Sys2Proof.Machine.execTmSetMcCount ch v s
  | .tmSetVcCount ch v => Sys2Proof.Machine.execTmSetVcCount ch v s
  | .tmSetSechdrFlag ch v => Sys2Proof.Machine.execTmSetSechdrFlag ch v s
  | .tmSetSyncFlag ch v => Sys2Proof.Machine.execTmSetSyncFlag ch v s
  | .tmSetPktOrderFlag ch v => Sys2Proof.Machine.execTmSetPktOrderFlag ch v s
  | .tmSetSegLenId ch v => Sys2Proof.Machine.execTmSetSegLenId ch v s
  | .tmSetFhp ch v => Sys2Proof.Machine.execTmSetFhp ch v s
  | .tmSetSechdrLen ch len => Sys2Proof.Machine.execTmSetSechdrLen ch len s
  | .tmSetSechdrData ch len => Sys2Proof.Machine.execTmSetSechdrData ch len s
  | .tmSetOcf ch off ocf => Sys2Proof.Machine.execTmSetOcf ch off ocf s
  | .tmUpdateFecf ch off => Sys2Proof.Machine.execTmUpdateFecf ch off s
  | .cop1InitClcw vcid => Sys2Proof.Machine.execCop1InitClcw vcid s
  | .cop1ProcessFrame destAvail d => Sys2Proof.Machine.execCop1ProcessFrame destAvail d s
  | .clcwGetCopEffect => Sys2Proof.Machine.execClcwGetCopEffect s
  | .clcwGetVcid => Sys2Proof.Machine.execClcwGetVcid s
  | .clcwRd => Sys2Proof.Machine.execClcwRd s
  | .tcSyncGetFrame cltuLen derandomize => Sys2Proof.Machine.execTcSyncGetFrame cltuLen derandomize s
  | .tmSyncSynchronize ch asmLen frameLen randomize => Sys2Proof.Machine.execTmSyncSynchronize ch asmLen frameLen randomize s
  | .sdlpInitChannel ch cfg => Sys2Proof.Machine.execSdlpInitChannel ch cfg s
  | .sdlpStartFrame ch => Sys2Proof.Machine.execSdlpStartFrame ch s
  | .sdlpAddPacket ch len => Sys2Proof.Machine.execSdlpAddPacket ch len s
  | .sdlpAddIdlePacket ch len => Sys2Proof.Machine.execSdlpAddIdlePacket ch len s
  | .sdlpAddVcaData ch len => Sys2Proof.Machine.execSdlpAddVcaData ch len s
  | .sdlpCompleteFrame ch ocfPresent ocf => Sys2Proof.Machine.execSdlpCompleteFrame ch ocfPresent ocf s
  | .sdlpGetStatus ch selector => Sys2Proof.Machine.execSdlpGetStatus ch selector s

end Sys2Proof.Machine
end

