-- ==== Sys2Proof/Machine/Step.lean ====
section
/-! DEFINITION. One step of the block: the next event at its ports (20_memory.md R41, 30_encoding.md R53). -/

namespace Sys2Proof.Machine

/-- One step. The block takes what the host presents next: a command word is decoded and executed to completion, a
reserved opcode answers `IllegalOp` (R252), `rst` resets (R270), and with nothing presented nothing happens (R255). -/
def step (s : State) : Host.Outcome State Fault Refusal :=
  match s.hostIn with
  | [] => .next s.idle
  | .reset _ :: rest => .next (s.withHostIn rest).resetPulse
  | .command w :: rest =>
    match decode w with
    | .ok i => exec i (s.withHostIn rest)
    | .error e => illegalCommand (s.withHostIn rest) e

/-- The state in which the host presents the command word of a table row next (log 3); the bits above `nbits` are 0. -/
def State.withFetchWord (s : State) (nbits w : Nat) : State :=
  s.withHostIn (.command (BitVec.ofNat 64 (w % 2 ^ nbits)) :: s.hostIn)

end Sys2Proof.Machine
end

