-- ==== Sys2Proof/Safety.lean ====
section
/-! DEFINITION. What a sound state of the block is: the invariants of 10_state.md R27 with the canonical form and the
bounds of the buffers, the CLCW's constant fields, and the status codes that exist. -/

namespace Sys2Proof.Machine

/-- A buffer memory is canonical and lies within its capacity (20_memory.md R36). -/
def Memory.ok (m : Memory) (cap : Nat) : Bool := m.wf && m.within cap

/-- Every buffer of the block but those of the channels is canonical and within its capacity. -/
def State.buffersOk (s : State) : Bool :=
  Memory.ok s.cltu s.params.cltuCap && Memory.ok s.tcbuf s.params.tcbufCap && Memory.ok s.paybuf Params.paybufCap &&
    Memory.ok s.inbuf s.params.inbufCap && Memory.ok s.asmbuf s.params.asmCap && Memory.ok s.cadu s.params.caduCap

/-- The octets that the segments account for (R27 b). -/
def segmentSum (l : List Segment) : Nat := (l.map (fun g => g.n.toNat)).sum

/-- The buffers of a channel are canonical and within their capacities. -/
def Channel.memOk (p : Params) (c : Channel) : Bool := Memory.ok c.frm p.frameCap && Memory.ok c.ovf p.ovfCap

/-- The configuration that the configuration registers of a channel hold (R20). -/
def Channel.config (c : Channel) : ChannelConfig :=
  { frameLen := c.frameLen, scid := c.scid, fecf := c.fecfFlag, vcid := c.vcid, ocf := c.ocfFlag,
    sechdr := c.sechdrFlag, sechdrLen := c.sechdrLen, vca := c.vca, isVc := c.isVc }

/-- The layout registers are those of the configuration, which passed the checks of SDLP_INIT_CHANNEL (R21, 47_tm_sdlp.md
R206, R207). -/
def Channel.layoutOk (p : Params) (c : Channel) : Bool :=
  initCheck p c.config == none && c.dataOff.toNat == headerLen c.config && c.dataLen.toNat == layoutDataLen c.config &&
    c.ocfOff.toNat == layoutOcfOff c.config && c.fecfOff.toNat == layoutFecfOff c.config

/-- R27 (a): the write cursor is the data offset plus the octets written; with the layout. -/
def Channel.cursorOk (p : Params) (c : Channel) : Bool :=
  !c.isInit || (c.layoutOk p && c.free.toNat ≤ c.dataLen.toNat &&
    c.cur.toNat == c.dataOff.toNat + (c.dataLen.toNat - c.free.toNat))

/-- R27 (b), (c): the segments describe the stored octets, each at least one, and only the first can be a
continuation. -/
def Channel.ringOk (p : Params) (c : Channel) : Bool :=
  c.ovfFree.toNat ≤ p.ovfCap && c.ovfHead.toNat < p.ovfCap && segmentSum c.seg == c.ovfCount p &&
    c.seg.all (fun g => 1 ≤ g.n.toNat) && c.seg.tail.all (fun g => !g.cont)

/-- R27 (d), (e): a ready channel with room has an empty ring, and is initialised. -/
def Channel.cycleOk (p : Params) (c : Channel) : Bool :=
  (!(c.isReady && 0 < c.free.toNat) || c.ovfCount p == 0) && (!c.isReady || c.isInit)

/-- R27 (f): an uninitialised channel holds its reset values but for `FRM[ch]`. -/
def Channel.pristine (p : Params) (c : Channel) : Bool :=
  c.isInit || c == { Channel.reset p with frm := c.frm }

/-- The invariants of 10_state.md R27 for one channel context. -/
def Channel.ok (p : Params) (c : Channel) : Bool :=
  c.memOk p && c.cursorOk p && c.ringOk p && c.cycleOk p && c.pristine p

/-- The CLCW fields that nothing sets stay 0, and the COP in effect is 0 or 1 (93_implementation_defined.md U1 to U4). -/
def Clcw.ok (c : Clcw) : Bool :=
  c.ctrlWordType == 0 && c.version == 0 && c.status == 0 && (c.copInEffect == 0 || c.copInEffect == 1) &&
    c.spare1 == 0 && !c.noRF && !c.noBitlock && c.spare2 == 0

/-- `STATUS` is one of the thirteen codes, and `RESULT` is 0 with every error (60_exceptions.md R246, R248). -/
def State.responseOk (s : State) : Bool :=
  s.status.toNat ≤ 0x0C && (s.status == 0 || s.result == 0)

/-- The capacities and the number of channels obey 00_scope.md R5. -/
def State.paramsOk (s : State) : Bool := s.params.wellFormed && Config.channelCountOk s.nTmChan

/-- A sound state: what holds after reset and after every step. -/
def State.Ok (s : State) : Bool :=
  s.paramsOk && s.buffersOk && s.chans.all (fun c => c.ok s.params) && s.clcw.ok && s.responseOk

end Sys2Proof.Machine
end

