-- ==== Sys2Proof/Certificates/Slice0/Obligations.lean ====
section
/-! DEFINITION. The statements for the provers. The helpers first: what a command answers, and the arithmetic of wire
fields, written independently of the model's own field functions. -/

namespace Sys2Proof.Claims

open Sys2Proof.Machine

/-- Octet `a` of a buffer as a number. -/
def oct (m : Memory) (a : Nat) : Nat := (m.read a).toNat

/-- The command `i` in state `s` answers `(st, v)` and leaves `s'` but for the response (30_encoding.md R52). -/
def Answers (i : Instr) (s s' : State) (st : Status) (v : Nat) : Prop :=
  exec i s = .next { s' with status := statusCode st, result := BitVec.ofNat 32 v, rspValid := true }

/-- The state with the context of channel `ch` replaced. -/
def withCtx (s : State) (ch : BitVec 8) (c : Channel) : State := { s with chans := s.chans.set ch.toNat c }

/-- The command `i` answers `(OK, 0)` and writes the frame buffer of channel `ch`, whose context is `c`: afterwards octet
`a` of the buffer is `g a`, for every `a`; nothing else changes. -/
def WritesFrame (i : Instr) (s : State) (ch : BitVec 8) (c : Channel) (g : Nat → Nat) : Prop :=
  ∃ f : Memory, Answers i s (withCtx s ch { c with frm := f }) .ok 0 ∧ ∀ a, oct f a = g a

/-- `m'` is `m` with octet `a` set to `v`. -/
def Stored (m m' : Memory) (a : Nat) (v : Octet) : Prop := ∀ x, m'.read x = if x = a then v else m.read x

/-- The bypass flag `H[0][5]` (30_encoding.md R57). -/
def bypassBit (m : Memory) : Nat := oct m 0 / 32 % 2

/-- The control-command flag `H[0][4]`. -/
def ctlBit (m : Memory) : Nat := oct m 0 / 16 % 2

/-- The MAP id accessor's value (42_tctf.md R105). -/
def mapValue (m : Memory) : Nat := if ctlBit m = 1 then 255 else oct m 5 % 64

/-- Total frame length (R101). -/
def frameLength (m : Memory) : Nat := (oct m 2 % 4) * 256 + oct m 3 + 1

/-- Payload offset (R107). -/
def payOff (d : ServiceDescriptor) : Nat := 5 + d.hasSeg.toNat

/-- Payload length; natural subtraction stops at 0 (R106). -/
def payLen (m : Memory) (d : ServiceDescriptor) : Nat := frameLength m - (payOff d + 2 * d.hasFecf.toNat)

/-- `m'` is `PAYBUF` after the payload copy (R107). -/
def Copied (s : State) (d : ServiceDescriptor) (m' : Memory) : Prop :=
  ∀ x, m'.read x = if x < payLen s.tcbuf d then s.tcbuf.read (payOff d + x) else s.paybuf.read x

/-- A frame is valid for a service (R108). -/
def ValidFor (m : Memory) (d : ServiceDescriptor) : Prop :=
  oct m 0 / 64 = d.version.toNat ∧ (oct m 0 / 4 % 4) * 256 + oct m 1 = d.scid.toNat ∧
    (d.svcType = .mcf ∨ (d.svcType = .access ∧ oct m 2 / 4 = d.vcid.toNat) ∨
      (d.svcType = .nonAccess ∧ oct m 2 / 4 = d.vcid.toNat ∧ mapValue m = d.mapid.toNat)) ∧
    ¬(ctlBit m = 1 ∧ bypassBit m = 0)

/-- `(N(S) - V(R)) mod 256` of the frame in `TCBUF` (44_cop1_farm1.md R163). -/
def seqDelta (s : State) : Nat := (oct s.tcbuf 4 + 256 - s.clcw.report.toNat) % 256

/-- A sequence-controlled frame outside Lockout, with `(N(S) - V(R)) mod 256` from `lo` to `hi` (R167, R168). -/
def SequencedAt (s : State) (lo hi : Nat) : Prop :=
  bypassBit s.tcbuf = 0 ∧ s.clcw.lockout = false ∧ lo ≤ seqDelta s ∧ seqDelta s ≤ hi

/-- N(S) = V(R) (R163). -/
def PassEdge (s : State) : Prop := SequencedAt s 0 0

/-- N(S) in the positive window (R163; 90_conflicts.md C6: V(R) itself is the pass). -/
def PositiveEdge (s : State) : Prop := SequencedAt s 1 62

/-- N(S) in the lockout area (R163). -/
def LockoutEdge (s : State) : Prop := SequencedAt s 63 192

/-- SET-V(R) while in Lockout (R162). -/
def SetVrInLockout (s : State) : Prop :=
  bypassBit s.tcbuf = 1 ∧ ctlBit s.tcbuf = 1 ∧ oct s.tcbuf 5 = 0x82 ∧ oct s.tcbuf 6 = 0 ∧ s.clcw.lockout = true

/-- The CRC register after octets, bit by bit from `0xFFFF` (41_prbs_crc.md R86, R87). -/
def serialCrc (bs : List Octet) : BitVec 16 := bs.foldl crcStepSerial 0xFFFF

/-- Header octets of a configuration (47_tm_sdlp.md R206). -/
def hdrOctets (g : ChannelConfig) : Nat := if g.sechdr then 7 + g.sechdrLen.toNat else 6

/-- Trailer octets of a configuration (R206). -/
def trailOctets (g : ChannelConfig) : Nat := 4 * g.ocf.toNat + 2 * g.fecf.toNat

/-- Octet `a` of the frame buffer after initialisation (R208). -/
def initOctet (g : ChannelConfig) (a : Nat) : Nat :=
  if a = 0 then 64 + g.scid.toNat / 16
  else if a = 1 then (g.scid.toNat % 16) * 16 + g.vcid.toNat * 2 + g.ocf.toNat
  else if a = 4 then g.sechdr.toNat * 128 + (if g.vca then 64 else 24)
  else if a = 6 ∧ g.sechdr = true then g.sechdrLen.toNat
  else 0

/-- Where the first whole packet of the queued segments starts, in stored octets (R210, R211). -/
def firstPacketStart : List Segment → Option Nat
  | [] => none
  | g :: r => if g.isPacket && !g.cont then some 0 else (firstPacketStart r).map (fun o => g.n.toNat + o)

/-- The segments left when `n` octets have left the ring (R210). -/
def consumed : Nat → List Segment → List Segment
  | _, [] => []
  | n, g :: r =>
    if g.n.toNat ≤ n then consumed (n - g.n.toNat) r
    else if n = 0 then g :: r
    else { n := BitVec.ofNat 16 (g.n.toNat - n), isPacket := g.isPacket, cont := true } :: r

/-- Octets stored in the ring (10_state.md R25). -/
def stored (p : Params) (c : Channel) : Nat := p.ovfCap - c.ovfFree.toNat

/-- The octets a channel holds, oldest first: those in the data field of the frame under assembly, then those in the
ring (47_tm_sdlp.md R217). -/
def stream (p : Params) (c : Channel) : List Octet :=
  c.frm.readBytes c.dataOff.toNat (c.cur.toNat - c.dataOff.toNat) ++ c.ovf.readRing p.ovfCap c.ovfHead.toNat (stored p c)

/-- Octet `a` of a frame once the counters, the pointer sentinel and the OCF are written (R222). -/
def closedOctet (s : State) (c : Channel) (ocf : Word) (a : Nat) : Octet :=
  if a = 2 then s.mcfc + 1
  else if a = 3 ∧ c.isVc = true then c.vcfc + 1
  else if a = 4 ∧ c.fhpSet = false then BitVec.ofNat 8 (oct c.frm 4 / 8 * 8 + 7)
  else if a = 5 ∧ c.fhpSet = false then 0xFF#8
  else if c.ocfFlag = true ∧ a = c.ocfOff.toNat then BitVec.ofNat 8 (ocf.toNat / 2 ^ 24)
  else if c.ocfFlag = true ∧ a = c.ocfOff.toNat + 1 then BitVec.ofNat 8 (ocf.toNat / 2 ^ 16)
  else if c.ocfFlag = true ∧ a = c.ocfOff.toNat + 2 then BitVec.ofNat 8 (ocf.toNat / 2 ^ 8)
  else if c.ocfFlag = true ∧ a = c.ocfOff.toNat + 3 then BitVec.ofNat 8 ocf.toNat
  else c.frm.read a

/-- The reserved opcode values as 30_encoding.md R64 lists them. -/
def ReservedOp (op : Nat) : Prop :=
  op = 0x00 ∨ (0x03 ≤ op ∧ op ≤ 0x1F) ∨ (0x2C ≤ op ∧ op ≤ 0x2F) ∨ (0x3E ≤ op ∧ op ≤ 0x3F) ∨ op = 0x4F ∨
    (0x55 ≤ op ∧ op ≤ 0x5F) ∨ (0x61 ≤ op ∧ op ≤ 0x6F) ∨ (0x71 ≤ op ∧ op ≤ 0x7F) ∨ (0x87 ≤ op ∧ op ≤ 0xFF)

/-- The `ch` field of a command word (R50). -/
def wCh (w : Command) : BitVec 8 := w.extractLsb' 48 8

/-- The `a` field of a command word (R50). -/
def wA (w : Command) : Half := w.extractLsb' 32 16

/-- The `b` field of a command word (R50). -/
def wB (w : Command) : Half := w.extractLsb' 16 16

/-- The `c` field of a command word (R50). -/
def wC (w : Command) : Half := w.extractLsb' 0 16

/-- The `d` operand of a command word (R50). -/
def wD (w : Command) : Word := w.extractLsb' 0 32

/-- The service descriptor in a command word, bit by bit as R55 places its fields in `d` = `w[31:0]`. -/
def wDescriptor (w : Command) : ServiceDescriptor :=
  { svcType := if w.toNat % 4 = 0 then .mcf else if w.toNat % 4 = 1 then .access else if w.toNat % 4 = 2 then .nonAccess
      else .reserved,
    version := w.extractLsb' 2 2, scid := w.extractLsb' 4 10, vcid := w.extractLsb' 14 6, mapid := w.extractLsb' 20 8,
    hasSeg := w.getLsbD 28, hasFecf := w.getLsbD 29 }

/-- The channel configuration in a command word, as R63 places its fields in `a`, `b` = `w[31:16]` and `c` = `w[15:0]`. -/
def wConfig (w : Command) : ChannelConfig :=
  { frameLen := w.extractLsb' 32 16, scid := w.extractLsb' 16 10, fecf := w.getLsbD 26, vcid := w.extractLsb' 0 3,
    ocf := w.getLsbD 3, sechdr := w.getLsbD 4, sechdrLen := w.extractLsb' 5 6, vca := w.getLsbD 11, isVc := w.getLsbD 12 }

/-- Every word whose `op` is `op` decodes to the command `i` makes of its operand bits. -/
def OpDecodes (op : BitVec 8) (i : Command → Instr) : Prop :=
  ∀ w : Command, w.extractLsb' 56 8 = op → decode w = .ok (i w)

/-- The commands that use `ch` by their rule, other than BUF_RD and BUF_WR, which use it for space 6 only: those of the
TM codec, TM_SYNC and TM_SDLP (R54). -/
def UsesChannel (i : Instr) : Prop :=
  (0x30 ≤ i.opcode.toNat ∧ i.opcode.toNat ≤ 0x4E) ∨ 0x70 ≤ i.opcode.toNat

/-- The commands that may write a channel context or its buffers: BUF_WR, the TM setters and helpers, and the SDLP
commands but SDLP_GET_STATUS (10_state.md R18, R20 to R26). -/
def WritesChannel (i : Instr) : Prop :=
  i.opcode = 0x02 ∨ (0x40 ≤ i.opcode.toNat ∧ i.opcode.toNat ≤ 0x4E) ∨ (0x80 ≤ i.opcode.toNat ∧ i.opcode.toNat ≤ 0x85)

/-- The three add commands with what `add_data` is told (47_tm_sdlp.md R213 to R215). -/
def AddCommand (i : Instr) (ch : BitVec 8) (len : Half) (isPacket : Bool) : Prop :=
  (i = .sdlpAddPacket ch len ∧ isPacket = true) ∨ (i = .sdlpAddIdlePacket ch len ∧ isPacket = true) ∨
    (i = .sdlpAddVcaData ch len ∧ isPacket = false)

end Sys2Proof.Claims

open Sys2Proof Sys2Proof.Machine Sys2Proof.Claims

/-! ### Encoding -/

/-- The decoder reads back every command the encoder writes: no operand bit is dropped (R50, R51, R54, R55, R63). -/
def Obligations.DecodeAfterEncodeIsIdentity : Prop :=
  ∀ i : Instr, i.wellFormed = true → decode (encode i) = .ok i

/-- The opcode map (R54): each of the 57 opcodes decodes to its command, with each operand taken from the bits of the
word that the command's rule names, whatever the other bits are (R51). -/
def Obligations.OpcodeMapDecodesEveryCommand : Prop :=
  OpDecodes 0x01 (fun w => .bufRd (wCh w) (wA w) (wB w)) ∧
  OpDecodes 0x02 (fun w => .bufWr (wCh w) (wA w) (wB w) (w.extractLsb' 0 8)) ∧
  OpDecodes 0x20 (fun _ => .tcGetVersion) ∧ OpDecodes 0x21 (fun _ => .tcGetBypass) ∧
  OpDecodes 0x22 (fun _ => .tcGetCtlcmd) ∧ OpDecodes 0x23 (fun _ => .tcGetScid) ∧
  OpDecodes 0x24 (fun _ => .tcGetVcid) ∧ OpDecodes 0x25 (fun _ => .tcGetLength) ∧
  OpDecodes 0x26 (fun _ => .tcGetSeq) ∧ OpDecodes 0x27 (fun _ => .tcGetSegFlags) ∧
  OpDecodes 0x28 (fun _ => .tcGetMapid) ∧ OpDecodes 0x29 (fun w => .tcGetPayloadLen (wDescriptor w)) ∧
  OpDecodes 0x2A (fun w => .tcCopyPayload (wDescriptor w)) ∧ OpDecodes 0x2B (fun w => .tcIsValid (wDescriptor w)) ∧
  OpDecodes 0x30 (fun w => .tmGetVersion (wCh w)) ∧ OpDecodes 0x31 (fun w => .tmGetScid (wCh w)) ∧
  OpDecodes 0x32 (fun w => .tmGetVcid (wCh w)) ∧ OpDecodes 0x33 (fun w => .tmGetOcfFlag (wCh w)) ∧
  OpDecodes 0x34 (fun w => .tmGetMcCount (wCh w)) ∧ OpDecodes 0x35 (fun w => .tmGetVcCount (wCh w)) ∧
  OpDecodes 0x36 (fun w => .tmGetSechdrFlag (wCh w)) ∧ OpDecodes 0x37 (fun w => .tmGetSyncFlag (wCh w)) ∧
  OpDecodes 0x38 (fun w => .tmGetPktOrderFlag (wCh w)) ∧ OpDecodes 0x39 (fun w => .tmGetSegLenId (wCh w)) ∧
  OpDecodes 0x3A (fun w => .tmGetFhp (wCh w)) ∧ OpDecodes 0x3B (fun w => .tmGetSechdrLen (wCh w)) ∧
  OpDecodes 0x3C (fun w => .tmGetGvcid (wCh w)) ∧ OpDecodes 0x3D (fun w => .tmGetMcid (wCh w)) ∧
  OpDecodes 0x40 (fun w => .tmSetVersion (wCh w) (w.extractLsb' 0 2)) ∧
  OpDecodes 0x41 (fun w => .tmSetScid (wCh w) (w.extractLsb' 0 10)) ∧
  OpDecodes 0x42 (fun w => .tmSetVcid (wCh w) (w.extractLsb' 0 3)) ∧
  OpDecodes 0x43 (fun w => .tmSetOcfFlag (wCh w) (w.getLsbD 0)) ∧
  OpDecodes 0x44 (fun w => .tmSetMcCount (wCh w) (w.extractLsb' 0 8)) ∧
  OpDecodes 0x45 (fun w => .tmSetVcCount (wCh w) (w.extractLsb' 0 8)) ∧
  OpDecodes 0x46 (fun w => .tmSetSechdrFlag (wCh w) (w.getLsbD 0)) ∧
  OpDecodes 0x47 (fun w => .tmSetSyncFlag (wCh w) (w.getLsbD 0)) ∧
  OpDecodes 0x48 (fun w => .tmSetPktOrderFlag (wCh w) (w.getLsbD 0)) ∧
  OpDecodes 0x49 (fun w => .tmSetSegLenId (wCh w) (w.extractLsb' 0 2)) ∧
  OpDecodes 0x4A (fun w => .tmSetFhp (wCh w) (w.extractLsb' 0 11)) ∧
  OpDecodes 0x4B (fun w => .tmSetSechdrLen (wCh w) (wC w)) ∧
  OpDecodes 0x4C (fun w => .tmSetSechdrData (wCh w) (wA w)) ∧
  OpDecodes 0x4D (fun w => .tmSetOcf (wCh w) (wA w) (wD w)) ∧
  OpDecodes 0x4E (fun w => .tmUpdateFecf (wCh w) (wA w)) ∧
  OpDecodes 0x50 (fun w => .cop1InitClcw (w.extractLsb' 0 6)) ∧
  OpDecodes 0x51 (fun w => .cop1ProcessFrame (w.getLsbD 32) (wDescriptor w)) ∧
  OpDecodes 0x52 (fun _ => .clcwGetCopEffect) ∧ OpDecodes 0x53 (fun _ => .clcwGetVcid) ∧
  OpDecodes 0x54 (fun _ => .clcwRd) ∧
  OpDecodes 0x60 (fun w => .tcSyncGetFrame (wA w) (w.getLsbD 0)) ∧
  OpDecodes 0x70 (fun w => .tmSyncSynchronize (wCh w) (wA w) (wB w) (w.getLsbD 0)) ∧
  OpDecodes 0x80 (fun w => .sdlpInitChannel (wCh w) (wConfig w)) ∧
  OpDecodes 0x81 (fun w => .sdlpStartFrame (wCh w)) ∧
  OpDecodes 0x82 (fun w => .sdlpAddPacket (wCh w) (wA w)) ∧
  OpDecodes 0x83 (fun w => .sdlpAddIdlePacket (wCh w) (wA w)) ∧
  OpDecodes 0x84 (fun w => .sdlpAddVcaData (wCh w) (wA w)) ∧
  OpDecodes 0x85 (fun w => .sdlpCompleteFrame (wCh w) (w.getLsbD 32) (wD w)) ∧
  OpDecodes 0x86 (fun w => .sdlpGetStatus (wCh w) (wA w))

/-- The decoder rejects exactly the reserved opcodes (R64), by their value. -/
def Obligations.DecoderRejectsExactlyReservedOpcodes : Prop :=
  ∀ w : Command, (ReservedOp (w.extractLsb' 56 8).toNat → decode w = .error (.illegalOp (w.extractLsb' 56 8))) ∧
    (¬ReservedOp (w.extractLsb' 56 8).toNat → ∃ i, decode w = .ok i)

/-- Words written out in the spec's vectors decode to the commands they stand for (95_test_vectors.md C40, C42, C43, P1,
P2). -/
def Obligations.VectorWordsDecode : Prop :=
  decode 0x02000001000012AB = .ok (.bufWr 0 1 0 0xAB) ∧ decode 0x0101000600000000 = .ok (.bufRd 1 6 0) ∧
  decode 0x2B0000001FFA9232 = .ok (.tcIsValid
    { svcType := .nonAccess, version := 0, scid := 0x123, vcid := 0x2A, mapid := 255, hasSeg := true, hasFecf := false }) ∧
  decode 0x4A000000000005A5 = .ok (.tmSetFhp 0 0x5A5) ∧ decode 0x4D00006401A80014 = .ok (.tmSetOcf 0 0x64 0x01A80014) ∧
  decode 0x50FFFFFFFFFFFFEA = .ok (.cop1InitClcw 0x2A) ∧ decode 0x6000001A00000001 = .ok (.tcSyncGetFrame 0x1A true) ∧
  decode 0x7000000400200001 = .ok (.tmSyncSynchronize 0 4 0x20 true) ∧
  decode 0x8000002006AB100D = .ok (.sdlpInitChannel 0
    { frameLen := 32, scid := 0x2AB, fecf := true, vcid := 5, ocf := true, sechdr := false, sechdrLen := 0, vca := false,
      isVc := true }) ∧
  decode 0x8500000101A80000 = .ok (.sdlpCompleteFrame 0 true 0x01A80000)

/-! ### The step -/

/-- A command word at the port that decodes to `i` makes the step the execution of `i`, the word taken from the host's
inputs. -/
def Obligations.StepRunsDecodedCommand : Prop :=
  ∀ (s : State) (w : Command) (rest : List HostEvent) (i : Instr), s.hostIn = .command w :: rest → decode w = .ok i →
    i.wellFormed = true → step s = exec i { s with hostIn := rest }

/-- A command presented by its encoded word as a table row is executed by the very next step. -/
def Obligations.PresentedCommandRunsNext : Prop :=
  ∀ (i : Instr) (s : State), decodeTableWord 64 (encode i).toNat = some i ∧
    step (s.withFetchWord 64 (encode i).toNat) = exec i s

/-- A reserved opcode is answered `(IllegalOp, 0)` and changes nothing else (R252). -/
def Obligations.ReservedOpcodeAnswersIllegalOp : Prop :=
  ∀ (s : State) (w : Command) (rest : List HostEvent), s.hostIn = .command w :: rest →
    ReservedOp (w.extractLsb' 56 8).toNat →
      step s = .next { s with hostIn := rest, status := 0x0C, result := 0, rspValid := true }

/-- The status codes of R246. -/
def Obligations.StatusCodesFollowTheTable : Prop :=
  [Status.ok, .invalidArgument, .invalidFrame, .farm1Violation, .invalidSecondaryHeader, .invalidLength,
    .frameNotInitialized, .frameNotReady, .overflowFull, .invalidCltu, .invalidAsmSize, .genericError,
    .illegalOp].map (fun st => (statusCode st).toNat) = List.range 13

/-- `rst` puts every piece of state at its reset value and leaves no effect and no response of a command in progress
(R270, R31). -/
def Obligations.ResetEventRestoresResetState : Prop :=
  ∀ (s : State) (w : Option Command) (rest : List HostEvent), s.hostIn = .reset w :: rest →
    ∃ t, step s = .next t ∧ t.params = s.params ∧ t.hostIn = rest ∧ t.rspValid = false ∧ t.status = 0 ∧ t.result = 0 ∧
      t.clcw.word = 0 ∧ t.tcLen = 0 ∧ t.payLen = 0 ∧ t.caduLen = 0 ∧ t.mcfc = 0 ∧
      (∀ a, t.cltu.read a = 0 ∧ t.tcbuf.read a = 0 ∧ t.paybuf.read a = 0 ∧ t.inbuf.read a = 0 ∧ t.cadu.read a = 0) ∧
      (∀ a, oct t.asmbuf a = if a = 0 then 0x1A else if a = 1 then 0xCF else if a = 2 then 0xFC else if a = 3 then 0x1D
        else 0) ∧
      t.chans.length = s.chans.length ∧
      ∀ (k : Nat) (c : Channel), t.chans[k]? = some c → (∀ a, c.frm.read a = 0 ∧ c.ovf.read a = 0) ∧
        c.ovfFree = BitVec.ofNat 17 s.params.ovfCap ∧
        c = { frameLen := 0, scid := 0, fecfFlag := false, vcid := 0, ocfFlag := false, sechdrFlag := false,
              sechdrLen := 0, vca := false, isVc := false, dataOff := 0, dataLen := 0, ocfOff := 0, fecfOff := 0,
              isInit := false, isReady := false, fhpSet := false, free := 0, cur := 0, vcfc := 0, frm := c.frm,
              ovf := c.ovf, ovfHead := 0, ovfFree := c.ovfFree, seg := [] }

/-! ### Invariants and whole-machine rules -/

/-- The state after reset is sound, for all capacities and channel counts R5 allows. -/
def Obligations.ResetStateIsSound : Prop :=
  State.reset.Ok = true ∧
    ∀ (p : Params) (n : Nat), p.wellFormed = true → Config.channelCountOk n = true → (State.resetOf p n).Ok = true

/-- Every step keeps a sound state sound: the invariants of 10_state.md R27, the canonical form and bounds of every
buffer, the constant CLCW fields and the response registers. -/
def Obligations.EveryStepKeepsSoundness : Prop :=
  ∀ s t : State, s.Ok = true → step s = .next t → t.Ok = true

/-- From a sound state no step stops: every input has its answer (20_memory.md R36, R41; 60_exceptions.md R245). -/
def Obligations.SoundStateNeverStops : Prop :=
  ∀ s : State, s.Ok = true → ∃ t, step s = .next t

/-- Every step keeps every buffer canonical and within its capacity, whatever the registers hold (20_memory.md R36). -/
def Obligations.EveryStepKeepsBuffersInBounds : Prop :=
  ∀ s t : State, s.paramsOk = true → s.buffersOk = true → s.chans.all (fun c => c.memOk s.params) = true →
    step s = .next t → t.buffersOk = true ∧ t.chans.all (fun c => c.memOk t.params) = true

/-- The CLCW fields that no operation sets stay 0 and the COP in effect stays 0 or 1, from every state in which they are
so (10_state.md R13, R14; 93_implementation_defined.md U1 to U4). -/
def Obligations.EveryStepKeepsClcwConstantFields : Prop :=
  ∀ s t : State, s.clcw.ok = true → step s = .next t → t.clcw.ok = true

/-- After every step `STATUS` is one of the thirteen codes and `RESULT` is 0 with every error (R246, R248). -/
def Obligations.EveryStepKeepsResponseRegisters : Prop :=
  ∀ s t : State, s.responseOk = true → step s = .next t → t.responseOk = true

/-- No command changes the capacities, the number of channels or what the host presents next, and every one presents a
response. -/
def Obligations.ExecKeepsInputsAndCapacities : Prop :=
  ∀ (i : Instr) (s t : State), exec i s = .next t →
    t.params = s.params ∧ t.hostIn = s.hostIn ∧ t.chans.length = s.chans.length ∧ t.rspValid = true

/-- A command that ends with an error has changed nothing but `STATUS` and `RESULT`, with the four exceptions of R249, all
in COP1_PROCESS_FRAME on a valid frame: each writes exactly what R249's table lists for it, and every other error (a
sequence-controlled frame while in Lockout among them) leaves all state as it was. `RESULT` is 0 in all of them. -/
def Obligations.ErrorsChangeNothingButTheFourCases : Prop :=
  (∀ (a : Bool) (d : ServiceDescriptor) (s : State), ValidFor s.tcbuf d →
    (PositiveEdge s → Answers (.cop1ProcessFrame a d) s
      { s with clcw := { s.clcw with retransmit := true } } .farm1Violation 0) ∧
    (LockoutEdge s → Answers (.cop1ProcessFrame a d) s
      { s with clcw := { s.clcw with lockout := true } } .farm1Violation 0) ∧
    (SetVrInLockout s → Answers (.cop1ProcessFrame a d) s
      { s with clcw := { s.clcw with farmB := s.clcw.farmB + 1 } } .farm1Violation 0) ∧
    (PassEdge s → a = false → Answers (.cop1ProcessFrame a d) s
      { s with clcw := { s.clcw with wait := true, retransmit := true } } .invalidArgument 0)) ∧
  (∀ (i : Instr) (s t : State), exec i s = .next t → t.status ≠ 0 →
    (∀ a d, i = .cop1ProcessFrame a d → ValidFor s.tcbuf d →
      ¬PositiveEdge s ∧ ¬LockoutEdge s ∧ ¬SetVrInLockout s ∧ ¬(PassEdge s ∧ a = false)) →
    t = { s with status := t.status, result := 0, rspValid := true })

/-- Only COP1_INIT_CLCW and COP1_PROCESS_FRAME write the CLCW (R155). -/
def Obligations.ClcwWrittenOnlyByFarm : Prop :=
  ∀ (i : Instr) (s t : State), exec i s = .next t → t.clcw ≠ s.clcw →
    (∃ v, i = .cop1InitClcw v) ∨ ∃ a d, i = .cop1ProcessFrame a d

/-- Lockout is left only by COP1_INIT_CLCW or a valid UNLOCK frame, and V(R) moves only by COP1_INIT_CLCW, an accepted
SET-V(R), or by one with an accepted sequence-controlled frame (R155, R174). -/
def Obligations.LockoutAndVrMoveOnlyByTheRules : Prop :=
  ∀ (i : Instr) (s t : State), exec i s = .next t →
    (s.clcw.lockout = true → t.clcw.lockout = false → (∃ v, i = .cop1InitClcw v) ∨
      ∃ a d, i = .cop1ProcessFrame a d ∧ ValidFor s.tcbuf d ∧ bypassBit s.tcbuf = 1 ∧ ctlBit s.tcbuf = 1 ∧
        oct s.tcbuf 5 = 0) ∧
    (t.clcw.report ≠ s.clcw.report → (∃ v, i = .cop1InitClcw v) ∨
      ∃ a d, i = .cop1ProcessFrame a d ∧ ValidFor s.tcbuf d ∧ s.clcw.lockout = false ∧
        ((bypassBit s.tcbuf = 1 ∧ ctlBit s.tcbuf = 1 ∧ oct s.tcbuf 5 = 0x82 ∧ oct s.tcbuf 6 = 0 ∧
            t.clcw.report = s.tcbuf.read 7) ∨
          (bypassBit s.tcbuf = 0 ∧ a = true ∧ seqDelta s = 0 ∧ t.clcw.report = s.clcw.report + 1)))

/-- A command touches no channel context but the one its `ch` field names, and commands other than BUF_WR, the TM setters
and the SDLP commands touch none (70_reset_and_hazards.md R279). -/
def Obligations.OtherChannelsAreUntouched : Prop :=
  ∀ (i : Instr) (s t : State), exec i s = .next t →
    (∀ k, k ≠ i.fieldCh.toNat → t.chans[k]? = s.chans[k]?) ∧ (¬WritesChannel i → t.chans = s.chans)

/-- `MCFC` moves only by a successful SDLP_COMPLETE_FRAME, and then by one modulo 256 (R16, R223). -/
def Obligations.MasterCountMovesOnlyByCompletion : Prop :=
  ∀ (i : Instr) (s t : State), exec i s = .next t → t.mcfc ≠ s.mcfc →
    t.mcfc = s.mcfc + 1 ∧ t.status = 0 ∧ ∃ ch p d, i = .sdlpCompleteFrame ch p d

/-- Each buffer, and each register that says how much of it is valid, is written only by the commands the table of R18
lists. -/
def Obligations.BuffersAreWrittenOnlyByTheirCommands : Prop :=
  ∀ (i : Instr) (s t : State), exec i s = .next t →
    (t.cltu ≠ s.cltu → i.opcode = 0x02) ∧ (t.tcbuf ≠ s.tcbuf → i.opcode = 0x02 ∨ i.opcode = 0x60) ∧
    (t.paybuf ≠ s.paybuf → i.opcode = 0x2A ∨ i.opcode = 0x51) ∧ (t.inbuf ≠ s.inbuf → i.opcode = 0x02) ∧
    (t.asmbuf ≠ s.asmbuf → i.opcode = 0x02) ∧ (t.cadu ≠ s.cadu → i.opcode = 0x70) ∧
    (t.tcLen ≠ s.tcLen → i.opcode = 0x60) ∧ (t.payLen ≠ s.payLen → i.opcode = 0x2A ∨ i.opcode = 0x51) ∧
    (t.caduLen ≠ s.caduLen → i.opcode = 0x70) ∧
    ∀ (k : Nat) (c c' : Channel), s.chans[k]? = some c → t.chans[k]? = some c' → c'.ovf ≠ c.ovf →
      i.opcode = 0x80 ∨ i.opcode = 0x82 ∨ i.opcode = 0x83 ∨ i.opcode = 0x84

/-- Every command that uses `ch` ends with `InvalidArgument` and no other change when `ch >= N_TM_CHAN`, before any other
check (R51). -/
def Obligations.MissingChannelIsInvalidArgument : Prop :=
  ∀ (i : Instr) (s : State), s.chans.length ≤ i.fieldCh.toNat →
    (UsesChannel i → Answers i s s .invalidArgument 0) ∧
    (∀ ch addr, i = .bufRd ch 6 addr → Answers i s s .invalidArgument 0) ∧
    (∀ ch addr v, i = .bufWr ch 6 addr v → Answers i s s .invalidArgument 0)

/-! ### Host access (40_host_access.md) -/

/-- BUF_RD returns the octet of every space, at every address below its size; `ch` counts for space 6 only (R75). -/
def Obligations.BufRdReturnsTheOctet : Prop :=
  ∀ (ch : BitVec 8) (addr : Half) (s : State),
    (addr.toNat < s.params.cltuCap → Answers (.bufRd ch 0 addr) s s .ok (oct s.cltu addr.toNat)) ∧
    (addr.toNat < s.params.tcbufCap → Answers (.bufRd ch 1 addr) s s .ok (oct s.tcbuf addr.toNat)) ∧
    (addr.toNat < 1019 → Answers (.bufRd ch 2 addr) s s .ok (oct s.paybuf addr.toNat)) ∧
    (addr.toNat < s.params.inbufCap → Answers (.bufRd ch 3 addr) s s .ok (oct s.inbuf addr.toNat)) ∧
    (addr.toNat < s.params.asmCap → Answers (.bufRd ch 4 addr) s s .ok (oct s.asmbuf addr.toNat)) ∧
    (addr.toNat < s.params.asmCap + s.params.frameCap →
      Answers (.bufRd ch 5 addr) s s .ok (oct s.cadu addr.toNat)) ∧
    (∀ c, s.chans[ch.toNat]? = some c → addr.toNat < s.params.frameCap →
      Answers (.bufRd ch 6 addr) s s .ok (oct c.frm addr.toNat))

/-- BUF_WR stores one octet in each space the host may write, and changes nothing else (R76). -/
def Obligations.BufWrStoresTheOctet : Prop :=
  ∀ (ch : BitVec 8) (addr : Half) (v : Octet) (s : State),
    (addr.toNat < s.params.cltuCap →
      ∃ m, Answers (.bufWr ch 0 addr v) s { s with cltu := m } .ok 0 ∧ Stored s.cltu m addr.toNat v) ∧
    (addr.toNat < s.params.tcbufCap →
      ∃ m, Answers (.bufWr ch 1 addr v) s { s with tcbuf := m } .ok 0 ∧ Stored s.tcbuf m addr.toNat v) ∧
    (addr.toNat < s.params.inbufCap →
      ∃ m, Answers (.bufWr ch 3 addr v) s { s with inbuf := m } .ok 0 ∧ Stored s.inbuf m addr.toNat v) ∧
    (addr.toNat < s.params.asmCap →
      ∃ m, Answers (.bufWr ch 4 addr v) s { s with asmbuf := m } .ok 0 ∧ Stored s.asmbuf m addr.toNat v) ∧
    (∀ c, s.chans[ch.toNat]? = some c → addr.toNat < s.params.frameCap →
      ∃ m, Answers (.bufWr ch 6 addr v) s (withCtx s ch { c with frm := m }) .ok 0 ∧ Stored c.frm m addr.toNat v)

/-- BUF_RD and BUF_WR reject a space above 6, a write to the read-only spaces, and an address at or beyond the size of the
space (R75, R76); a bad channel for space 6 is in `MissingChannelIsInvalidArgument`. -/
def Obligations.BufferAccessRejections : Prop :=
  ∀ (ch : BitVec 8) (space addr : Half) (v : Octet) (s : State),
    ((6 < space.toNat ∨ (space.toNat = 0 ∧ s.params.cltuCap ≤ addr.toNat) ∨
        (space.toNat = 1 ∧ s.params.tcbufCap ≤ addr.toNat) ∨ (space.toNat = 2 ∧ 1019 ≤ addr.toNat) ∨
        (space.toNat = 3 ∧ s.params.inbufCap ≤ addr.toNat) ∨ (space.toNat = 4 ∧ s.params.asmCap ≤ addr.toNat) ∨
        (space.toNat = 5 ∧ s.params.asmCap + s.params.frameCap ≤ addr.toNat) ∨
        (space.toNat = 6 ∧ s.params.frameCap ≤ addr.toNat)) →
      Answers (.bufRd ch space addr) s s .invalidArgument 0 ∧ Answers (.bufWr ch space addr v) s s .invalidArgument 0) ∧
    (space.toNat = 2 ∨ space.toNat = 5 → Answers (.bufWr ch space addr v) s s .invalidArgument 0)

/-- An octet that BUF_WR stored is what BUF_RD then returns, and every other address of the space reads as before
(20_memory.md R39, R41). -/
def Obligations.WrittenOctetIsReadBack : Prop :=
  ∀ (ch : BitVec 8) (space addr : Half) (v : Octet) (s t : State), exec (.bufWr ch space addr v) s = .next t →
    t.status = 0 →
      Answers (.bufRd ch space addr) t t .ok v.toNat ∧
      ∀ (addr' : Half) (u : State), addr' ≠ addr → exec (.bufRd ch space addr') s = .next u →
        ∃ u', exec (.bufRd ch space addr') t = .next u' ∧ u'.status = u.status ∧ u'.result = u.result

/-! ### TC codec (42_tctf.md) -/

/-- The nine TC field accessors, from the octets of `TCBUF` (R97 to R105). -/
def Obligations.TcAccessorsReadTheirFields : Prop :=
  ∀ s : State,
    Answers .tcGetVersion s s .ok (oct s.tcbuf 0 / 64) ∧ Answers .tcGetBypass s s .ok (oct s.tcbuf 0 / 32 % 2) ∧
    Answers .tcGetCtlcmd s s .ok (oct s.tcbuf 0 / 16 % 2) ∧
    Answers .tcGetScid s s .ok ((oct s.tcbuf 0 / 4 % 4) * 256 + oct s.tcbuf 1) ∧
    Answers .tcGetVcid s s .ok (oct s.tcbuf 2 / 4) ∧
    Answers .tcGetLength s s .ok ((oct s.tcbuf 2 % 4) * 256 + oct s.tcbuf 3 + 1) ∧
    Answers .tcGetSeq s s .ok (oct s.tcbuf 4) ∧
    Answers .tcGetSegFlags s s .ok (if ctlBit s.tcbuf = 1 then 255 else oct s.tcbuf 5 / 64) ∧
    Answers .tcGetMapid s s .ok (if ctlBit s.tcbuf = 1 then 255 else oct s.tcbuf 5 % 64)

/-- TC_GET_PAYLOAD_LEN and TC_COPY_PAYLOAD (R106, R107): the length, clamped at 0; the copied octets, with `PAYBUF` kept
beyond them; `pay_len`. -/
def Obligations.TcPayloadIsMeasuredAndCopied : Prop :=
  ∀ (d : ServiceDescriptor) (s : State),
    Answers (.tcGetPayloadLen d) s s .ok (payLen s.tcbuf d) ∧
    ∃ m, Answers (.tcCopyPayload d) s { s with paybuf := m, payLen := BitVec.ofNat 16 (payLen s.tcbuf d) } .ok
      (payLen s.tcbuf d) ∧ Copied s d m

/-- TC_IS_VALID answers 1 for a valid frame and 0 otherwise, never an error (R108). -/
def Obligations.TcIsValidFollowsTheClauses : Prop :=
  ∀ (d : ServiceDescriptor) (s : State),
    (ValidFor s.tcbuf d → Answers (.tcIsValid d) s s .ok 1) ∧ (¬ValidFor s.tcbuf d → Answers (.tcIsValid d) s s .ok 0)

/-! ### TM codec (43_tmtf.md) -/

/-- The fourteen TM getters, from the octets of `FRM[ch]` (R117 to R130). -/
def Obligations.TmGettersReadTheirFields : Prop :=
  ∀ (ch : BitVec 8) (c : Channel) (s : State), s.chans[ch.toNat]? = some c →
    Answers (.tmGetVersion ch) s s .ok (oct c.frm 0 / 64) ∧
    Answers (.tmGetScid ch) s s .ok ((oct c.frm 0 % 64) * 16 + oct c.frm 1 / 16) ∧
    Answers (.tmGetVcid ch) s s .ok (oct c.frm 1 / 2 % 8) ∧ Answers (.tmGetOcfFlag ch) s s .ok (oct c.frm 1 % 2) ∧
    Answers (.tmGetMcCount ch) s s .ok (oct c.frm 2) ∧ Answers (.tmGetVcCount ch) s s .ok (oct c.frm 3) ∧
    Answers (.tmGetSechdrFlag ch) s s .ok (oct c.frm 4 / 128) ∧
    Answers (.tmGetSyncFlag ch) s s .ok (oct c.frm 4 / 64 % 2) ∧
    Answers (.tmGetPktOrderFlag ch) s s .ok (oct c.frm 4 / 32 % 2) ∧
    Answers (.tmGetSegLenId ch) s s .ok (oct c.frm 4 / 8 % 4) ∧
    Answers (.tmGetFhp ch) s s .ok ((oct c.frm 4 % 8) * 256 + oct c.frm 5) ∧
    Answers (.tmGetSechdrLen ch) s s .ok (oct c.frm 6 % 64) ∧
    Answers (.tmGetGvcid ch) s s .ok ((oct c.frm 0 * 256 + oct c.frm 1) / 2) ∧
    Answers (.tmGetMcid ch) s s .ok (oct c.frm 0 * 16 + oct c.frm 1 / 16)

/-- The eleven TM field setters (R131 to R141): the field's bits take the value, every other bit of `FRM[ch]` is kept, but
for the side effect of the sync flag set to 0, which forces packet order 0 and segment length id 3 (R138); no register
changes. -/
def Obligations.TmSettersWriteTheirFields : Prop :=
  ∀ (ch : BitVec 8) (c : Channel) (s : State), s.chans[ch.toNat]? = some c →
    (∀ v, WritesFrame (.tmSetVersion ch v) s ch c
      (fun a => if a = 0 then v.toNat * 64 + oct c.frm 0 % 64 else oct c.frm a)) ∧
    (∀ v, WritesFrame (.tmSetScid ch v) s ch c
      (fun a => if a = 0 then oct c.frm 0 / 64 * 64 + v.toNat / 16
        else if a = 1 then (v.toNat % 16) * 16 + oct c.frm 1 % 16 else oct c.frm a)) ∧
    (∀ v, WritesFrame (.tmSetVcid ch v) s ch c
      (fun a => if a = 1 then oct c.frm 1 / 16 * 16 + v.toNat * 2 + oct c.frm 1 % 2 else oct c.frm a)) ∧
    (∀ v, WritesFrame (.tmSetOcfFlag ch v) s ch c
      (fun a => if a = 1 then oct c.frm 1 / 2 * 2 + v.toNat else oct c.frm a)) ∧
    (∀ v, WritesFrame (.tmSetMcCount ch v) s ch c (fun a => if a = 2 then v.toNat else oct c.frm a)) ∧
    (∀ v, WritesFrame (.tmSetVcCount ch v) s ch c (fun a => if a = 3 then v.toNat else oct c.frm a)) ∧
    (∀ v, WritesFrame (.tmSetSechdrFlag ch v) s ch c
      (fun a => if a = 4 then v.toNat * 128 + oct c.frm 4 % 128 else oct c.frm a)) ∧
    (∀ v, WritesFrame (.tmSetSyncFlag ch v) s ch c
      (fun a => if a = 4 then (if v = true then oct c.frm 4 / 128 * 128 + 64 + oct c.frm 4 % 64
        else oct c.frm 4 / 128 * 128 + 24 + oct c.frm 4 % 8) else oct c.frm a)) ∧
    (∀ v, WritesFrame (.tmSetPktOrderFlag ch v) s ch c
      (fun a => if a = 4 then oct c.frm 4 / 64 * 64 + v.toNat * 32 + oct c.frm 4 % 32 else oct c.frm a)) ∧
    (∀ v, WritesFrame (.tmSetSegLenId ch v) s ch c
      (fun a => if a = 4 then oct c.frm 4 / 32 * 32 + v.toNat * 8 + oct c.frm 4 % 8 else oct c.frm a)) ∧
    (∀ v, WritesFrame (.tmSetFhp ch v) s ch c
      (fun a => if a = 4 then oct c.frm 4 / 8 * 8 + v.toNat / 256 else if a = 5 then v.toNat % 256 else oct c.frm a))

/-- TM_SET_SECHDR_LEN and TM_SET_SECHDR_DATA (R142, R143): the flag in the frame is tested first, then the length. -/
def Obligations.TmSecondaryHeaderHelpers : Prop :=
  ∀ (ch : BitVec 8) (len : Half) (c : Channel) (s : State), s.chans[ch.toNat]? = some c →
    (oct c.frm 4 / 128 = 0 → Answers (.tmSetSechdrLen ch len) s s .invalidSecondaryHeader 0 ∧
      Answers (.tmSetSechdrData ch len) s s .invalidSecondaryHeader 0) ∧
    (oct c.frm 4 / 128 = 1 →
      (len.toNat = 0 ∨ 63 < len.toNat → Answers (.tmSetSechdrLen ch len) s s .invalidLength 0) ∧
      (1 ≤ len.toNat → len.toNat ≤ 63 →
        WritesFrame (.tmSetSechdrLen ch len) s ch c (fun a => if a = 6 then len.toNat else oct c.frm a)) ∧
      (len.toNat = 0 ∨ oct c.frm 6 % 64 < len.toNat → Answers (.tmSetSechdrData ch len) s s .invalidLength 0) ∧
      (1 ≤ len.toNat → len.toNat ≤ oct c.frm 6 % 64 →
        WritesFrame (.tmSetSechdrData ch len) s ch c
          (fun a => if 7 ≤ a ∧ a < 7 + len.toNat then oct s.inbuf (a - 7) else oct c.frm a)))

/-- TM_SET_OCF (R144): `GenericError` with the flag clear, then the upper bound, then the four octets, first octet in
`d[31:24]`. -/
def Obligations.TmSetOcfWritesFourOctets : Prop :=
  ∀ (ch : BitVec 8) (off : Half) (d : Word) (c : Channel) (s : State), s.chans[ch.toNat]? = some c →
    (oct c.frm 1 % 2 = 0 → Answers (.tmSetOcf ch off d) s s .genericError 0) ∧
    (oct c.frm 1 % 2 = 1 → s.params.frameCap < off.toNat + 4 → Answers (.tmSetOcf ch off d) s s .invalidLength 0) ∧
    (oct c.frm 1 % 2 = 1 → off.toNat + 4 ≤ s.params.frameCap →
      WritesFrame (.tmSetOcf ch off d) s ch c
        (fun a => if a = off.toNat then d.toNat / 2 ^ 24
          else if a = off.toNat + 1 then d.toNat / 2 ^ 16 % 256
          else if a = off.toNat + 2 then d.toNat / 2 ^ 8 % 256
          else if a = off.toNat + 3 then d.toNat % 256 else oct c.frm a))

/-- TM_UPDATE_FECF (R145, R87): the bounds; then the trailer holds, big-endian, the bit-serial CRC of the octets before it
followed by two zero octets, and nothing else changes. -/
def Obligations.TmUpdateFecfWritesTheCrc : Prop :=
  ∀ (ch : BitVec 8) (off : Half) (c : Channel) (s : State), s.chans[ch.toNat]? = some c →
    (off.toNat < 6 ∨ s.params.frameCap < off.toNat + 2 → Answers (.tmUpdateFecf ch off) s s .invalidLength 0) ∧
    (6 ≤ off.toNat → off.toNat + 2 ≤ s.params.frameCap →
      WritesFrame (.tmUpdateFecf ch off) s ch c
        (fun a => if a = off.toNat then (serialCrc (c.frm.readBytes 0 off.toNat ++ [0, 0])).toNat / 256
          else if a = off.toNat + 1 then (serialCrc (c.frm.readBytes 0 off.toNat ++ [0, 0])).toNat % 256
          else oct c.frm a))

/-! ### PRBS and CRC (41_prbs_crc.md) -/

/-- The table-driven CRC step is the bit-serial one (R86). -/
def Obligations.CrcTableStepIsBitSerial : Prop :=
  ∀ (crc : BitVec 16) (x : Octet), crcStep crc x = crcStepSerial crc x

/-- The receiver's check (R88 a): over a frame with the trailer that TM_UPDATE_FECF left, the CRC register ends at 0. -/
def Obligations.UpdatedFrameChecksToZero : Prop :=
  ∀ (ch : BitVec 8) (off : Half) (s t : State) (c : Channel), exec (.tmUpdateFecf ch off) s = .next t → t.status = 0 →
    t.chans[ch.toNat]? = some c → crcOf (c.frm.readBytes 0 (off.toNat + 2)) = 0

/-- The document's CRC self-test: octets `31 .. 39` and two zeroed octets end at `E5CC`; and the first and last entries of
the table (R84, R87). -/
def Obligations.CrcSelfTest : Prop :=
  crcOf [0x31, 0x32, 0x33, 0x34, 0x35, 0x36, 0x37, 0x38, 0x39, 0, 0] = 0xE5CC ∧
  (crc16Table 0x1021).take 8 = [0x0000, 0x1021, 0x2042, 0x3063, 0x4084, 0x50A5, 0x60C6, 0x70E7] ∧
  crctab 128 = 0x9188 ∧ crctab 255 = 0x1EF0

/-- The constant tables are what the generator makes (R17, R80). -/
def Obligations.PrbsTablesAreGenerated : Prop :=
  prbsTc = generatePrbs 0x5F 0xFF ∧ prbsTm = generatePrbs 0xA9 0xFF

/-- For both tables the window of R82 is the two-octet lookup of R83, at every index. -/
def Obligations.PrbsWindowIsTheTableLookup : Prop :=
  ∀ i : Nat, prbsWindow prbsTm i = prbsWindowLookup prbsTm i ∧ prbsWindow prbsTc i = prbsWindowLookup prbsTc i

/-- `xor_with_prbs` (R85): octet `i` is exclusive-ored with window `i`, counted from 0, for any number of octets; applied
twice it gives the octets back, for every sequence. -/
def Obligations.WhitenerXorsTheWindow : Prop :=
  ∀ bs seq : List Octet, (xorWithPrbs bs seq).length = bs.length ∧
    (∀ i b, bs[i]? = some b → (xorWithPrbs bs seq)[i]? = some (b ^^^ prbsWindow seq i)) ∧
    xorWithPrbs (xorWithPrbs bs seq) seq = bs

/-! ### COP-1 / FARM-1 (44_cop1_farm1.md) -/

/-- COP1_INIT_CLCW (R156): the vcid is `c[5:0]`, every other operand bit is ignored; always `OK`; the CLCW word is
`0x01000000 | (vcid << 18)` (30_encoding.md R56): COP in effect 1, Open, V(R) and FARM-B counter 0; nothing else
changes. -/
def Obligations.InitClcwSetsTheWord : Prop :=
  OpDecodes 0x50 (fun w => .cop1InitClcw (w.extractLsb' 0 6)) ∧
  ∀ (v : BitVec 6) (s : State), ∃ c : Clcw, Answers (.cop1InitClcw v) s { s with clcw := c } .ok 0 ∧
    c.word.toNat = 0x01000000 + v.toNat * 2 ^ 18 ∧ c.copInEffect = 1 ∧ c.vcid = v ∧ c.farmState = .opened ∧
    c.lockout = false ∧ c.wait = false ∧ c.retransmit = false ∧ c.report = 0 ∧ c.farmB = 0

/-- The three CLCW read commands (R171 to R173), with no operands, and `clcw_out` (R53): the word has the fields at the
bit positions of 30_encoding.md R56. -/
def Obligations.ClcwReadsReturnItsFields : Prop :=
  OpDecodes 0x52 (fun _ => .clcwGetCopEffect) ∧ OpDecodes 0x53 (fun _ => .clcwGetVcid) ∧
  OpDecodes 0x54 (fun _ => .clcwRd) ∧
  ∀ s : State,
    Answers .clcwGetCopEffect s s .ok s.clcw.copInEffect.toNat ∧ Answers .clcwGetVcid s s .ok s.clcw.vcid.toNat ∧
    Answers .clcwRd s s .ok s.clcwOut.toNat ∧
    s.clcwOut.toNat = s.clcw.ctrlWordType.toNat * 2 ^ 31 + s.clcw.version.toNat * 2 ^ 29 + s.clcw.status.toNat * 2 ^ 26 +
      s.clcw.copInEffect.toNat * 2 ^ 24 + s.clcw.vcid.toNat * 2 ^ 18 + s.clcw.spare1.toNat * 2 ^ 16 +
      s.clcw.noRF.toNat * 2 ^ 15 + s.clcw.noBitlock.toNat * 2 ^ 14 + s.clcw.lockout.toNat * 2 ^ 13 +
      s.clcw.wait.toNat * 2 ^ 12 + s.clcw.retransmit.toNat * 2 ^ 11 + s.clcw.farmB.toNat * 2 ^ 9 +
      s.clcw.spare2.toNat * 2 ^ 8 + s.clcw.report.toNat

/-- The sliding window by `delta = (N(S) - V(R)) mod 256` (R163): 0 is PASS, 1 to 62 POSITIVE, 63 to 192 LOCKOUT, 193 to
255 NEGATIVE. -/
def Obligations.ClassifierFollowsTheWindow : Prop :=
  ∀ ns vr : BitVec 8,
    classify ns vr = if (ns.toNat + 256 - vr.toNat) % 256 = 0 then .pass
      else if (ns.toNat + 256 - vr.toNat) % 256 ≤ 62 then .positive
      else if (ns.toNat + 256 - vr.toNat) % 256 ≤ 192 then .lockout
      else .negative

/-- All thirteen outcomes of COP1_PROCESS_FRAME (R170), each with its status, value and whole next state. -/
def Obligations.ProcessFrameHasTheThirteenOutcomes : Prop :=
  ∀ (a : Bool) (d : ServiceDescriptor) (s : State),
    (¬ValidFor s.tcbuf d → Answers (.cop1ProcessFrame a d) s s .invalidFrame 0) ∧
    (ValidFor s.tcbuf d → bypassBit s.tcbuf = 1 → ctlBit s.tcbuf = 1 →
      (oct s.tcbuf 5 = 0 → Answers (.cop1ProcessFrame a d) s
        { s with clcw := { s.clcw with lockout := false, wait := false, retransmit := false,
                                       farmB := s.clcw.farmB + 1 } } .ok 0) ∧
      (oct s.tcbuf 5 = 0x82 → oct s.tcbuf 6 = 0 → s.clcw.lockout = false → Answers (.cop1ProcessFrame a d) s
        { s with clcw := { s.clcw with wait := false, retransmit := false, farmB := s.clcw.farmB + 1,
                                       report := s.tcbuf.read 7 } } .ok 0) ∧
      (oct s.tcbuf 5 = 0x82 → oct s.tcbuf 6 = 0 → s.clcw.lockout = true → Answers (.cop1ProcessFrame a d) s
        { s with clcw := { s.clcw with farmB := s.clcw.farmB + 1 } } .farm1Violation 0) ∧
      (oct s.tcbuf 5 ≠ 0 → ¬(oct s.tcbuf 5 = 0x82 ∧ oct s.tcbuf 6 = 0) →
        Answers (.cop1ProcessFrame a d) s s .farm1Violation 0)) ∧
    (ValidFor s.tcbuf d → bypassBit s.tcbuf = 1 → ctlBit s.tcbuf = 0 →
      (a = true → ∃ m, Answers (.cop1ProcessFrame a d) s
        { s with clcw := { s.clcw with farmB := s.clcw.farmB + 1 }, paybuf := m,
                 payLen := BitVec.ofNat 16 (payLen s.tcbuf d) } .ok (payLen s.tcbuf d) ∧ Copied s d m) ∧
      (a = false → Answers (.cop1ProcessFrame a d) s
        { s with clcw := { s.clcw with farmB := s.clcw.farmB + 1 } } .ok 0)) ∧
    (ValidFor s.tcbuf d → bypassBit s.tcbuf = 0 →
      (s.clcw.lockout = true → Answers (.cop1ProcessFrame a d) s s .farm1Violation 0) ∧
      (s.clcw.lockout = false →
        (seqDelta s = 0 → a = true → ∃ m, Answers (.cop1ProcessFrame a d) s
          { s with clcw := { s.clcw with wait := false, retransmit := false, report := s.clcw.report + 1 }, paybuf := m,
                   payLen := BitVec.ofNat 16 (payLen s.tcbuf d) } .ok (payLen s.tcbuf d) ∧ Copied s d m) ∧
        (seqDelta s = 0 → a = false → Answers (.cop1ProcessFrame a d) s
          { s with clcw := { s.clcw with wait := true, retransmit := true } } .invalidArgument 0) ∧
        (1 ≤ seqDelta s → seqDelta s ≤ 62 → Answers (.cop1ProcessFrame a d) s
          { s with clcw := { s.clcw with retransmit := true } } .farm1Violation 0) ∧
        (63 ≤ seqDelta s → seqDelta s ≤ 192 → Answers (.cop1ProcessFrame a d) s
          { s with clcw := { s.clcw with lockout := true } } .farm1Violation 0) ∧
        (193 ≤ seqDelta s → Answers (.cop1ProcessFrame a d) s s .farm1Violation 0)))

/-! ### TC_SYNC and TM_SYNC (45_tc_sync.md, 46_tm_sync.md) -/

/-- TC_SYNC_GET_FRAME on a CLTU whose first tail block is block `k` (R187, R188): the seven data octets of each block
before it, parity skipped, derandomised if asked, in `TCBUF`; `TCBUF` kept beyond them. -/
def Obligations.TcSyncExtractsTheFrame : Prop :=
  ∀ (n : Half) (der : Bool) (s : State) (k : Nat), n.toNat ≤ s.params.cltuCap → oct s.cltu 0 = 0xEB →
    oct s.cltu 1 = 0x90 → 10 + 8 * k ≤ n.toNat →
    s.cltu.readBytes (2 + 8 * k) 8 = [0xC5, 0xC5, 0xC5, 0xC5, 0xC5, 0xC5, 0xC5, 0x79] →
    (∀ j < k, s.cltu.readBytes (2 + 8 * j) 8 ≠ [0xC5, 0xC5, 0xC5, 0xC5, 0xC5, 0xC5, 0xC5, 0x79]) →
    7 * k ≤ s.params.tcbufCap →
      ∃ m, Answers (.tcSyncGetFrame n der) s { s with tcbuf := m, tcLen := BitVec.ofNat 16 (7 * k) } .ok (7 * k) ∧
        ∀ x, m.read x = if x < 7 * k then
            (if der = true then s.cltu.read (2 + 8 * (x / 7) + x % 7) ^^^ prbsWindow prbsTc x
              else s.cltu.read (2 + 8 * (x / 7) + x % 7))
          else s.tcbuf.read x

/-- The errors of TC_SYNC_GET_FRAME (R187, R189): a length beyond the buffer; too short or no start sequence; exhausted
without a tail; more data blocks than `TCBUF` holds. Nothing is written. -/
def Obligations.TcSyncErrors : Prop :=
  ∀ (n : Half) (der : Bool) (s : State),
    (s.params.cltuCap < n.toNat → Answers (.tcSyncGetFrame n der) s s .invalidArgument 0) ∧
    (n.toNat ≤ s.params.cltuCap → (n.toNat < 2 ∨ oct s.cltu 0 ≠ 0xEB ∨ oct s.cltu 1 ≠ 0x90) →
      Answers (.tcSyncGetFrame n der) s s .invalidCltu 0) ∧
    (n.toNat ≤ s.params.cltuCap → 2 ≤ n.toNat → oct s.cltu 0 = 0xEB → oct s.cltu 1 = 0x90 →
      (∀ j, 10 + 8 * j ≤ n.toNat →
        s.cltu.readBytes (2 + 8 * j) 8 ≠ [0xC5, 0xC5, 0xC5, 0xC5, 0xC5, 0xC5, 0xC5, 0x79]) →
      7 * ((n.toNat - 2) / 8) ≤ s.params.tcbufCap → Answers (.tcSyncGetFrame n der) s s .invalidCltu 0) ∧
    (n.toNat ≤ s.params.cltuCap → oct s.cltu 0 = 0xEB → oct s.cltu 1 = 0x90 →
      10 + 8 * (s.params.tcbufCap / 7) ≤ n.toNat →
      (∀ j ≤ s.params.tcbufCap / 7,
        s.cltu.readBytes (2 + 8 * j) 8 ≠ [0xC5, 0xC5, 0xC5, 0xC5, 0xC5, 0xC5, 0xC5, 0x79]) →
      Answers (.tcSyncGetFrame n der) s s .invalidLength 0)

/-- TM_SYNC_SYNCHRONIZE (R196): the marker unchanged, then the frame, randomised if asked; `CADU` kept beyond them; the
frame buffer unchanged. -/
def Obligations.TmSyncBuildsTheCadu : Prop :=
  ∀ (ch : BitVec 8) (al fl : Half) (rnd : Bool) (c : Channel) (s : State), s.chans[ch.toNat]? = some c →
    al.toNat % 2 = 0 → 4 ≤ al.toNat → al.toNat ≤ s.params.asmCap → 1 ≤ fl.toNat → fl.toNat ≤ s.params.frameCap →
      ∃ m, Answers (.tmSyncSynchronize ch al fl rnd) s
          { s with cadu := m, caduLen := BitVec.ofNat 16 (al.toNat + fl.toNat) } .ok (al.toNat + fl.toNat) ∧
        ∀ x, m.read x = if x < al.toNat then s.asmbuf.read x
          else if x < al.toNat + fl.toNat then
            (if rnd = true then c.frm.read (x - al.toNat) ^^^ prbsWindow prbsTm (x - al.toNat)
              else c.frm.read (x - al.toNat))
          else s.cadu.read x

/-- The errors of TM_SYNC_SYNCHRONIZE, the marker check before the frame-length check (R196, R197). -/
def Obligations.TmSyncErrors : Prop :=
  ∀ (ch : BitVec 8) (al fl : Half) (rnd : Bool) (c : Channel) (s : State), s.chans[ch.toNat]? = some c →
    (al.toNat % 2 = 1 ∨ al.toNat < 4 ∨ s.params.asmCap < al.toNat →
      Answers (.tmSyncSynchronize ch al fl rnd) s s .invalidAsmSize 0) ∧
    (al.toNat % 2 = 0 → 4 ≤ al.toNat → al.toNat ≤ s.params.asmCap → fl.toNat = 0 ∨ s.params.frameCap < fl.toNat →
      Answers (.tmSyncSynchronize ch al fl rnd) s s .invalidArgument 0)

/-! ### TM_SDLP (47_tm_sdlp.md) -/

/-- A successful SDLP_INIT_CHANNEL (R207, R208) writes every register of the context by the layout formulas of R206, the
fixed header octets, and clears the rest of both buffers; `MCFC` and the other channels are kept. -/
def Obligations.InitChannelWritesTheContext : Prop :=
  ∀ (ch : BitVec 8) (g : ChannelConfig) (c : Channel) (s : State), s.chans[ch.toNat]? = some c →
    (g.sechdr = true ∧ g.sechdrLen ≠ 0 ∨ g.sechdr = false ∧ g.sechdrLen = 0) → g.frameLen.toNat ≤ s.params.frameCap →
    hdrOctets g + trailOctets g + 1 ≤ g.frameLen.toNat →
      ∃ f o, Answers (.sdlpInitChannel ch g) s (withCtx s ch
          { frameLen := g.frameLen, scid := g.scid, fecfFlag := g.fecf, vcid := g.vcid, ocfFlag := g.ocf,
            sechdrFlag := g.sechdr, sechdrLen := g.sechdrLen, vca := g.vca, isVc := g.isVc,
            dataOff := BitVec.ofNat 16 (hdrOctets g),
            dataLen := BitVec.ofNat 16 (g.frameLen.toNat - hdrOctets g - trailOctets g),
            ocfOff := BitVec.ofNat 16 (if g.ocf = true then g.frameLen.toNat - 4 - 2 * g.fecf.toNat else 0),
            fecfOff := BitVec.ofNat 16 (if g.fecf = true then g.frameLen.toNat - 2 else 0),
            isInit := true, isReady := false, fhpSet := false,
            free := BitVec.ofNat 16 (g.frameLen.toNat - hdrOctets g - trailOctets g),
            cur := BitVec.ofNat 16 (hdrOctets g), vcfc := 0, frm := f, ovf := o, ovfHead := 0,
            ovfFree := BitVec.ofNat 17 s.params.ovfCap, seg := [] }) .ok 0 ∧
        (∀ a, oct f a = initOctet g a) ∧ ∀ a, oct o a = 0

/-- The errors of SDLP_INIT_CHANNEL in the order they are checked; nothing is written (R207). -/
def Obligations.InitChannelErrors : Prop :=
  ∀ (ch : BitVec 8) (g : ChannelConfig) (c : Channel) (s : State), s.chans[ch.toNat]? = some c →
    (g.sechdr = true → g.sechdrLen = 0 → Answers (.sdlpInitChannel ch g) s s .invalidLength 0) ∧
    (g.sechdr = false → g.sechdrLen ≠ 0 → Answers (.sdlpInitChannel ch g) s s .invalidSecondaryHeader 0) ∧
    ((g.sechdr = true ∧ g.sechdrLen ≠ 0 ∨ g.sechdr = false ∧ g.sechdrLen = 0) →
      (s.params.frameCap < g.frameLen.toNat ∨ g.frameLen.toNat < hdrOctets g + trailOctets g + 1) →
      Answers (.sdlpInitChannel ch g) s s .invalidLength 0)

/-- SDLP_START_FRAME on an initialised channel of a sound state (R209, R210, R211): Ready; as many stored octets as fit
move from the head of the ring to the write cursor; the first header pointer is set by the first whole packet that starts
among them, if no packet set it before. -/
def Obligations.StartFrameRefillsFromTheRing : Prop :=
  ∀ (ch : BitVec 8) (c : Channel) (s : State), s.Ok = true → s.chans[ch.toNat]? = some c → c.isInit = true →
    ∃ (f : Memory) (b : Bool),
      Answers (.sdlpStartFrame ch) s (withCtx s ch
        { c with isReady := true, fhpSet := b, frm := f,
                 cur := BitVec.ofNat 16 (c.cur.toNat + min (stored s.params c) c.free.toNat),
                 free := BitVec.ofNat 16 (c.free.toNat - min (stored s.params c) c.free.toNat),
                 ovfHead := BitVec.ofNat 16 ((c.ovfHead.toNat + min (stored s.params c) c.free.toNat) % s.params.ovfCap),
                 ovfFree := BitVec.ofNat 17 (c.ovfFree.toNat + min (stored s.params c) c.free.toNat),
                 seg := consumed (min (stored s.params c) c.free.toNat) c.seg }) .ok 0 ∧
      (∀ x, x ≠ 4 → x ≠ 5 → f.read x =
        if c.cur.toNat ≤ x ∧ x < c.cur.toNat + min (stored s.params c) c.free.toNat then
          c.ovf.read ((c.ovfHead.toNat + (x - c.cur.toNat)) % s.params.ovfCap)
        else c.frm.read x) ∧
      (∀ o, c.fhpSet = false → firstPacketStart c.seg = some o → o < c.free.toNat →
        b = true ∧ oct f 4 = oct c.frm 4 / 8 * 8 + (c.cur.toNat - c.dataOff.toNat + o) / 256 ∧
          oct f 5 = (c.cur.toNat - c.dataOff.toNat + o) % 256) ∧
      ((c.fhpSet = true ∨ firstPacketStart c.seg = none ∨ ∃ o, firstPacketStart c.seg = some o ∧ c.free.toNat ≤ o) →
        b = c.fhpSet ∧ oct f 4 = oct c.frm 4 ∧ oct f 5 = oct c.frm 5)

/-- The three add commands on a ready channel of a sound state, when the part that spills fits the ring (R212 to R215):
the first `n = min(len, free)` octets of `INBUF` go to the write cursor, the rest to the tail of the ring with its
segment; a packet of which an octet enters the frame sets the first header pointer if none did this cycle. -/
def Obligations.AddCommandsPlaceAndSpill : Prop :=
  ∀ (i : Instr) (ch : BitVec 8) (len : Half) (k : Bool) (c : Channel) (s : State), AddCommand i ch len k → s.Ok = true →
    s.chans[ch.toNat]? = some c → c.isReady = true → 1 ≤ len.toNat → len.toNat ≤ s.params.inbufCap →
    len.toNat - min len.toNat c.free.toNat ≤ c.ovfFree.toNat →
      ∃ (f o : Memory),
        Answers i s (withCtx s ch
          { c with fhpSet := c.fhpSet || (k && decide (0 < c.free.toNat)), frm := f, ovf := o,
                   cur := BitVec.ofNat 16 (c.cur.toNat + min len.toNat c.free.toNat),
                   free := BitVec.ofNat 16 (c.free.toNat - min len.toNat c.free.toNat),
                   ovfFree := BitVec.ofNat 17 (c.ovfFree.toNat - (len.toNat - min len.toNat c.free.toNat)),
                   seg := if len.toNat ≤ c.free.toNat then c.seg
                     else c.seg ++ [{ n := BitVec.ofNat 16 (len.toNat - c.free.toNat), isPacket := k,
                                      cont := decide (0 < c.free.toNat) }] }) .ok (min len.toNat c.free.toNat) ∧
        (∀ x, x ≠ 4 → x ≠ 5 → f.read x =
          if c.cur.toNat ≤ x ∧ x < c.cur.toNat + min len.toNat c.free.toNat then s.inbuf.read (x - c.cur.toNat)
          else c.frm.read x) ∧
        (k = true → c.fhpSet = false → 0 < c.free.toNat →
          oct f 4 = oct c.frm 4 / 8 * 8 + (c.cur.toNat - c.dataOff.toNat) / 256 ∧
            oct f 5 = (c.cur.toNat - c.dataOff.toNat) % 256) ∧
        (k = false ∨ c.fhpSet = true ∨ c.free.toNat = 0 → oct f 4 = oct c.frm 4 ∧ oct f 5 = oct c.frm 5) ∧
        (∀ j < len.toNat - min len.toNat c.free.toNat,
          o.read ((c.ovfHead.toNat + stored s.params c + j) % s.params.ovfCap)
            = s.inbuf.read (min len.toNat c.free.toNat + j)) ∧
        (∀ x, (∀ j < len.toNat - min len.toNat c.free.toNat,
            (c.ovfHead.toNat + stored s.params c + j) % s.params.ovfCap ≠ x) → o.read x = c.ovf.read x)

/-- SDLP_COMPLETE_FRAME on an initialised channel of a sound state (R222, R223): both counters, the pointer sentinel, the
OCF by position, the error-control field last over all of them, and the cycle registers for a new cycle. -/
def Obligations.CompleteFrameClosesTheFrame : Prop :=
  ∀ (ch : BitVec 8) (present : Bool) (ocf : Word) (c : Channel) (s : State), s.Ok = true →
    s.chans[ch.toNat]? = some c → c.isInit = true → (c.ocfFlag = true → present = true) →
      ∃ f : Memory,
        Answers (.sdlpCompleteFrame ch present ocf) s
          (withCtx { s with mcfc := s.mcfc + 1 } ch
            { c with frm := f, vcfc := if c.isVc = true then c.vcfc + 1 else c.vcfc, free := c.dataLen, cur := c.dataOff,
                     fhpSet := false, isReady := false }) .ok c.frameLen.toNat ∧
        (∀ x, (c.fecfFlag = false ∨ (x ≠ c.fecfOff.toNat ∧ x ≠ c.fecfOff.toNat + 1)) →
          f.read x = closedOctet s c ocf x) ∧
        (c.fecfFlag = true → oct f c.fecfOff.toNat * 256 + oct f (c.fecfOff.toNat + 1) =
          (serialCrc ((List.range c.fecfOff.toNat).map (closedOctet s c ocf) ++ [0, 0])).toNat)

/-- The state errors of the SDLP commands in the order they are checked (R205, R209, R212, R216, R222). -/
def Obligations.SdlpStateErrors : Prop :=
  ∀ (i : Instr) (ch : BitVec 8) (len : Half) (k present : Bool) (ocf : Word) (c : Channel) (s : State),
    s.chans[ch.toNat]? = some c →
    (c.isInit = false → Answers (.sdlpStartFrame ch) s s .frameNotInitialized 0 ∧
      Answers (.sdlpCompleteFrame ch present ocf) s s .frameNotInitialized 0 ∧
      (AddCommand i ch len k → Answers i s s .frameNotInitialized 0)) ∧
    (c.isInit = true → c.ocfFlag = true → present = false →
      Answers (.sdlpCompleteFrame ch present ocf) s s .invalidArgument 0) ∧
    (AddCommand i ch len k → c.isInit = true →
      (c.isReady = false → Answers i s s .frameNotReady 0) ∧
      (c.isReady = true →
        (len.toNat = 0 ∨ s.params.inbufCap < len.toNat → Answers i s s .invalidArgument 0) ∧
        (1 ≤ len.toNat → len.toNat ≤ s.params.inbufCap →
          c.ovfFree.toNat < len.toNat - min len.toNat c.free.toNat → Answers i s s .overflowFull 0)))

/-- SDLP_GET_STATUS: the fourteen selectors, and `InvalidArgument` above them (R227). -/
def Obligations.GetStatusReturnsTheSelectedValue : Prop :=
  ∀ (ch : BitVec 8) (sel : Half) (c : Channel) (s : State), s.chans[ch.toNat]? = some c →
    Answers (.sdlpGetStatus ch 0) s s .ok (c.isInit.toNat + 2 * c.isReady.toNat + 4 * c.fhpSet.toNat) ∧
    Answers (.sdlpGetStatus ch 1) s s .ok c.free.toNat ∧ Answers (.sdlpGetStatus ch 2) s s .ok c.cur.toNat ∧
    Answers (.sdlpGetStatus ch 3) s s .ok c.dataOff.toNat ∧ Answers (.sdlpGetStatus ch 4) s s .ok c.dataLen.toNat ∧
    Answers (.sdlpGetStatus ch 5) s s .ok c.ocfOff.toNat ∧ Answers (.sdlpGetStatus ch 6) s s .ok c.fecfOff.toNat ∧
    Answers (.sdlpGetStatus ch 7) s s .ok c.ovfFree.toNat ∧
    (∀ g r, c.seg = g :: r → Answers (.sdlpGetStatus ch 8) s s .ok (if g.cont = true then g.n.toNat else 0)) ∧
    (c.seg = [] → Answers (.sdlpGetStatus ch 8) s s .ok 0) ∧
    Answers (.sdlpGetStatus ch 9) s s .ok (stored s.params c) ∧ Answers (.sdlpGetStatus ch 10) s s .ok s.mcfc.toNat ∧
    Answers (.sdlpGetStatus ch 11) s s .ok c.vcfc.toNat ∧ Answers (.sdlpGetStatus ch 12) s s .ok c.seg.length ∧
    Answers (.sdlpGetStatus ch 13) s s .ok c.frameLen.toNat ∧
    (13 < sel.toNat → Answers (.sdlpGetStatus ch sel) s s .invalidArgument 0)

/-- No octet is lost, duplicated or reordered (R217): in a sound state, what a channel holds (data field, then ring) grows by
exactly the unit with a successful add, is unchanged by SDLP_START_FRAME, and loses exactly the data field of the
completed frame, which keeps those octets, with SDLP_COMPLETE_FRAME. -/
def Obligations.PacketStreamIsConserved : Prop :=
  ∀ (ch : BitVec 8) (c : Channel) (s t : State), s.Ok = true → s.chans[ch.toNat]? = some c → t.status = 0 →
    (∀ i len k, AddCommand i ch len k → exec i s = .next t →
      ∃ c', t.chans[ch.toNat]? = some c' ∧ stream s.params c' = stream s.params c ++ s.inbuf.readBytes 0 len.toNat) ∧
    (exec (.sdlpStartFrame ch) s = .next t →
      ∃ c', t.chans[ch.toNat]? = some c' ∧ stream s.params c' = stream s.params c) ∧
    (∀ present ocf, exec (.sdlpCompleteFrame ch present ocf) s = .next t →
      ∃ c', t.chans[ch.toNat]? = some c' ∧ stream s.params c =
        c'.frm.readBytes c.dataOff.toNat (c.cur.toNat - c.dataOff.toNat) ++ stream s.params c')
end

