-- ==== Sys2Proof/Laws/Bits.lean ====
section
/-! SUPPORT. Bits as arithmetic: a field of a bit vector, a flag and a concatenation as numbers; fields of
concatenations and of fields. -/

namespace Sys2Proof

theorem toNat_ofBool (b : Bool) : (BitVec.ofBool b).toNat = b.toNat := by cases b <;> rfl

theorem toNat_getLsbD {w : Nat} (x : BitVec w) (i : Nat) : (x.getLsbD i).toNat = x.toNat / 2 ^ i % 2 := by
  rw [BitVec.getLsbD, Nat.testBit_eq_decide_div_mod_eq]
  rcases Nat.mod_two_eq_zero_or_one (x.toNat / 2 ^ i) with h | h <;> simp [h]

theorem getLsbD_eq_true {w : Nat} (x : BitVec w) (i : Nat) : x.getLsbD i = true ↔ x.toNat / 2 ^ i % 2 = 1 := by
  rw [← toNat_getLsbD]; cases x.getLsbD i <;> simp

theorem getLsbD_eq_false {w : Nat} (x : BitVec w) (i : Nat) : x.getLsbD i = false ↔ x.toNat / 2 ^ i % 2 = 0 := by
  rw [← toNat_getLsbD]; cases x.getLsbD i <;> simp

theorem toNat_append {w v : Nat} (x : BitVec w) (y : BitVec v) : (x ++ y).toNat = x.toNat * 2 ^ v + y.toNat := by
  rw [BitVec.toNat_append, ← Nat.shiftLeft_add_eq_or_of_lt y.isLt, Nat.shiftLeft_eq]

theorem toNat_extract {w : Nat} (x : BitVec w) (i n : Nat) : (x.extractLsb' i n).toNat = x.toNat / 2 ^ i % 2 ^ n := by
  simp [BitVec.extractLsb'_toNat, Nat.shiftRight_eq_div_pow]

/-- A value widened to a 32-bit response value. -/
theorem setWidth_eq_ofNat {w n : Nat} (x : BitVec w) (h : x.toNat = n) : x.setWidth 32 = BitVec.ofNat 32 n := by
  subst h; apply BitVec.eq_of_toNat_eq; simp

/-- A field that lies in the high part of a concatenation. -/
theorem extract_append_high {w v : Nat} (x : BitVec w) (y : BitVec v) (i n : Nat) (h : v ≤ i) :
    (x ++ y).extractLsb' i n = x.extractLsb' (i - v) n := by
  apply BitVec.eq_of_getLsbD_eq; intro k hk
  simp only [BitVec.getLsbD_extractLsb', BitVec.getLsbD_append, show ¬(i + k < v) by omega, if_false,
    show i + k - v = i - v + k by omega]

/-- A field that lies in the low part of a concatenation. -/
theorem extract_append_low {w v : Nat} (x : BitVec w) (y : BitVec v) (i n : Nat) (h : i + n ≤ v) :
    (x ++ y).extractLsb' i n = y.extractLsb' i n := by
  apply BitVec.eq_of_getLsbD_eq; intro k hk
  simp only [BitVec.getLsbD_extractLsb', BitVec.getLsbD_append, show i + k < v by omega, if_true]

theorem extract_self {w : Nat} (x : BitVec w) : x.extractLsb' 0 w = x := by
  apply BitVec.eq_of_getLsbD_eq; intro k hk; simp [hk]

/-- A field of a field. -/
theorem extract_extract {w : Nat} (x : BitVec w) (i n j k : Nat) (h : j + k ≤ n) :
    (x.extractLsb' i n).extractLsb' j k = x.extractLsb' (i + j) k := by
  apply BitVec.eq_of_getLsbD_eq; intro m hm
  simp [hm, show j + m < n by omega, Nat.add_assoc]

theorem getLsbD_extract {w : Nat} (x : BitVec w) (i n j : Nat) (h : j < n) :
    (x.extractLsb' i n).getLsbD j = x.getLsbD (i + j) := by
  simp [h]

/-- Two adjacent fields make the field over both. -/
theorem extract_append_extract {w : Nat} (x : BitVec w) (i n m : Nat) :
    x.extractLsb' (i + m) n ++ x.extractLsb' i m = x.extractLsb' i (n + m) := by
  apply BitVec.eq_of_getLsbD_eq; intro k hk
  simp only [BitVec.getLsbD_append, BitVec.getLsbD_extractLsb', hk, decide_true, Bool.true_and]
  by_cases h : k < m
  · simp [h]
  · simp [h, show k - m < n by omega, show i + m + (k - m) = i + k by omega]

end Sys2Proof
end

