-- ==== Sys2Proof/Laws/Decode.lean ====
section
/-! SUPPORT. Laws of the command word: what each packed operand reads back as, and the fields of an encoded command. -/

namespace Sys2Proof

/-- The fields of a word put together from its parts. -/
theorem Command.fields_append (op ch : BitVec 8) (a : Half) (d : Word) :
    Command.fields (op ++ ch ++ a ++ d) =
      { op := op, ch := ch, a := a, b := d.extractLsb' 16 16, c := d.extractLsb' 0 16 } := by
  simp only [Command.fields]
  congr 1
  · rw [extract_append_high _ _ _ _ (by omega), extract_append_high _ _ _ _ (by omega),
      extract_append_high _ _ _ _ (by omega)]
    exact extract_self op
  · rw [extract_append_high _ _ _ _ (by omega), extract_append_high _ _ _ _ (by omega),
      extract_append_low _ _ _ _ (by omega)]
    exact extract_self ch
  · rw [extract_append_high _ _ _ _ (by omega), extract_append_low _ _ _ _ (by omega)]
    exact extract_self a
  · rw [extract_append_low _ _ _ _ (by omega)]
  · rw [extract_append_low _ _ _ _ (by omega)]

/-- The fields of an encoded command. -/
theorem Command.fields_encode (i : Instr) : Command.fields (encode i) =
    { op := i.opcode, ch := i.fieldCh, a := i.fieldA, b := i.fieldD.extractLsb' 16 16, c := i.fieldD.extractLsb' 0 16 } :=
  Command.fields_append _ _ _ _

/-- The two halves of `d` make `d`. -/
theorem extract_halves (d : Word) : d.extractLsb' 16 16 ++ d.extractLsb' 0 16 = d :=
  (extract_append_extract d 0 16 16).trans (extract_self d)

/-- A service descriptor survives its packing. -/
theorem ServiceDescriptor.ofWord_word (s : ServiceDescriptor) : ServiceDescriptor.ofWord s.word = s := by
  obtain ⟨t, v, sc, vc, m, a, b⟩ := s
  simp only [ServiceDescriptor.ofWord, ServiceDescriptor.word]
  congr 1
  · rw [extract_append_low _ _ _ _ (by omega), extract_self]; cases t <;> rfl
  · rw [extract_append_high _ _ _ _ (by omega), extract_append_low _ _ _ _ (by omega)]; exact extract_self _
  · iterate 2 rw [extract_append_high _ _ _ _ (by omega)]
    rw [extract_append_low _ _ _ _ (by omega)]; exact extract_self _
  · iterate 3 rw [extract_append_high _ _ _ _ (by omega)]
    rw [extract_append_low _ _ _ _ (by omega)]; exact extract_self _
  · iterate 4 rw [extract_append_high _ _ _ _ (by omega)]
    rw [extract_append_low _ _ _ _ (by omega)]; exact extract_self _
  · simp only [BitVec.getLsbD_append]; simp
  · simp only [BitVec.getLsbD_append]; simp

/-- A channel configuration survives its packing. -/
theorem ChannelConfig.ofFields_fields (g : ChannelConfig) :
    ChannelConfig.ofFields g.frameLen g.fieldB g.fieldC = g := by
  obtain ⟨fl, sc, fe, vc, oc, sh, sl, va, iv⟩ := g
  simp only [ChannelConfig.ofFields, ChannelConfig.fieldB, ChannelConfig.fieldC]
  congr 1
  · rw [extract_append_low _ _ _ _ (by omega), extract_self]
  · simp only [BitVec.getLsbD_append]; simp
  · rw [extract_append_low _ _ _ _ (by omega), extract_self]
  · simp only [BitVec.getLsbD_append]; simp
  · simp only [BitVec.getLsbD_append]; simp
  · iterate 3 rw [extract_append_high _ _ _ _ (by omega)]
    rw [extract_append_low _ _ _ _ (by omega)]; exact extract_self _
  · simp only [BitVec.getLsbD_append]; simp
  · simp only [BitVec.getLsbD_append]; simp

end Sys2Proof
end

