-- ==== Sys2Proof/Laws/Memory.lean ====
section
/-! SUPPORT. Laws of the buffer memories: reading after writing, and the canonical form and the bounds that every memory
operation keeps. -/

namespace Sys2Proof.Machine

/-! ### Reading after writing -/

@[simp] theorem Memory.read_nil (a : Nat) : Memory.read [] a = 0#8 := rfl

@[simp] theorem Memory.read_cleared (a : Nat) : Memory.cleared.read a = 0#8 := rfl

theorem Memory.read_insertCell (a : Nat) (v : Octet) (m : Memory) (h : ∀ c ∈ m, c.1 ≠ a) (x : Nat) :
    Memory.read (Memory.insertCell a v m) x = if x = a then v else m.read x := by
  induction m with
  | nil => by_cases hx : a = x <;> simp [Memory.insertCell, Memory.read, hx, eq_comm (a := x)]
  | cons c m ih =>
    obtain ⟨k, y⟩ := c
    have hk : k ≠ a := h (k, y) (by simp)
    have ih := ih (fun c hc => h c (by simp [hc]))
    simp only [Memory.insertCell]
    split
    · by_cases hx : a = x
      · simp [Memory.read, hx]
      · simp [Memory.read, hx, eq_comm (a := x)]
    · simp only [Memory.read, ih]
      by_cases hx : k = x
      · simp [hx, show x ≠ a by omega]
      · simp [hx]

theorem Memory.read_erase (m : Memory) (a x : Nat) :
    Memory.read (m.filter (fun c => c.1 != a)) x = if x = a then 0#8 else m.read x := by
  induction m with
  | nil => simp
  | cons c m ih =>
    obtain ⟨k, y⟩ := c
    by_cases hk : k = a
    · subst hk
      simp only [List.filter_cons, bne_self_eq_false, Bool.false_eq_true, if_false, ih, Memory.read]
      by_cases hx : x = k
      · simp [hx]
      · simp [hx, show k ≠ x by omega]
    · simp only [List.filter_cons, bne_iff_ne, ne_eq, hk, not_false_eq_true, if_true, Memory.read, ih]
      by_cases hx : k = x
      · simp [hx, show x ≠ a by omega]
      · simp [hx]

/-- Reading after a write: the octet written at its address, the old content at every other. -/
@[simp] theorem Memory.read_write (m : Memory) (a : Nat) (v : Octet) (x : Nat) :
    (m.write a v).read x = if x = a then v else m.read x := by
  unfold Memory.write
  split
  · rename_i h
    rw [Memory.read_erase, h]; rfl
  · rw [Memory.read_insertCell _ _ _ (by simp), Memory.read_erase]
    split <;> simp_all

@[simp] theorem Memory.length_readBytes (m : Memory) (a n : Nat) : (m.readBytes a n).length = n := by
  simp [Memory.readBytes]

@[simp] theorem Memory.readBytes_zero (m : Memory) (a : Nat) : m.readBytes a 0 = [] := rfl

@[simp] theorem Memory.getElem?_readBytes (m : Memory) (a n i : Nat) :
    (m.readBytes a n)[i]? = if i < n then some (m.read (a + i)) else none := by
  by_cases h : i < n <;> simp [Memory.readBytes, h]

/-- Reading after a block write: the block's octets at its addresses, the old content at every other. -/
theorem Memory.read_writeBytes (m : Memory) (a : Nat) (bs : List Octet) (x : Nat) :
    (m.writeBytes a bs).read x = if a ≤ x ∧ x < a + bs.length then bs.getD (x - a) 0 else m.read x := by
  induction bs generalizing m a with
  | nil => simp [Memory.writeBytes, show ¬(a ≤ x ∧ x < a) by omega]
  | cons b bs ih =>
    simp only [Memory.writeBytes, ih, Memory.read_write, List.length_cons]
    by_cases h : x = a
    · subst h; simp
    · by_cases h2 : a + 1 ≤ x ∧ x < a + 1 + bs.length
      · have h3 : a ≤ x ∧ x < a + (bs.length + 1) := by omega
        have h4 : x - a = (x - (a + 1)) + 1 := by omega
        simp [h2, h3, h4]
      · have h3 : ¬(a ≤ x ∧ x < a + (bs.length + 1)) := by omega
        simp only [h2, h3, h, if_false]

@[simp] theorem Memory.length_readRing (m : Memory) (cap h n : Nat) : (m.readRing cap h n).length = n := by
  simp [Memory.readRing]

@[simp] theorem Memory.readRing_zero (m : Memory) (cap h : Nat) : m.readRing cap h 0 = [] := rfl

@[simp] theorem Memory.getElem?_readRing (m : Memory) (cap h n i : Nat) :
    (m.readRing cap h n)[i]? = if i < n then some (m.read ((h + i) % cap)) else none := by
  by_cases hi : i < n <;> simp [Memory.readRing, hi]

/-- Reading the ring in two parts. -/
theorem Memory.readRing_add (m : Memory) (cap h n k : Nat) :
    m.readRing cap h (n + k) = m.readRing cap h n ++ m.readRing cap ((h + n) % cap) k := by
  apply List.ext_getElem?
  intro i
  simp only [Memory.getElem?_readRing, List.getElem?_append, Memory.length_readRing]
  by_cases h1 : i < n
  · simp [h1, show i < n + k by omega]
  · have h2 : i - n < k ↔ i < n + k := by omega
    simp only [h1, h2, if_false]
    split
    · have : h + i = h + n + (i - n) := by omega
      rw [this, Nat.mod_add_mod]
    · rfl

theorem Memory.readBytes_add (m : Memory) (a n k : Nat) :
    m.readBytes a (n + k) = m.readBytes a n ++ m.readBytes (a + n) k := by
  apply List.ext_getElem?
  intro i
  simp only [Memory.getElem?_readBytes, List.getElem?_append, Memory.length_readBytes]
  by_cases h1 : i < n
  · simp [h1, show i < n + k by omega]
  · have h2 : i - n < k ↔ i < n + k := by omega
    simp only [h1, h2, if_false]
    split
    · have : a + i = a + n + (i - n) := by omega
      rw [this]
    · rfl

/-- Two memories that read the same over a range give the same octets. -/
theorem Memory.readBytes_congr {m m' : Memory} {a n : Nat} (h : ∀ i < n, m.read (a + i) = m'.read (a + i)) :
    m.readBytes a n = m'.readBytes a n := by
  apply List.ext_getElem?
  intro i
  simp only [Memory.getElem?_readBytes]
  split
  · rw [h i ‹_›]
  · rfl

theorem Memory.readRing_congr {m m' : Memory} {cap h n : Nat}
    (e : ∀ i < n, m.read ((h + i) % cap) = m'.read ((h + i) % cap)) :
    m.readRing cap h n = m'.readRing cap h n := by
  apply List.ext_getElem?
  intro i
  simp only [Memory.getElem?_readRing]
  split
  · rw [e i ‹_›]
  · rfl

/-- A block write read back. -/
theorem Memory.readBytes_writeBytes_same (m : Memory) (a : Nat) (bs : List Octet) :
    (m.writeBytes a bs).readBytes a bs.length = bs := by
  apply List.ext_getElem?
  intro i
  simp only [Memory.getElem?_readBytes, Memory.read_writeBytes]
  by_cases h : i < bs.length <;> simp [h]

/-- Octets outside a ring write of at most `cap` octets keep their content. -/
theorem Memory.read_writeRing_of_ne (m : Memory) (cap t : Nat) (bs : List Octet) (x : Nat)
    (h : ∀ i < bs.length, (t + i) % cap ≠ x) : (m.writeRing cap t bs).read x = m.read x := by
  induction bs generalizing m t with
  | nil => rfl
  | cons b bs ih =>
    have h0 := h 0 (by simp)
    have hs : ∀ i < bs.length, (t + 1 + i) % cap ≠ x := by
      intro i hi
      have := h (i + 1) (by simpa using hi)
      rwa [show t + 1 + i = t + (i + 1) by omega]
    simp only [Memory.writeRing, ih _ _ hs, Memory.read_write]
    rw [if_neg]
    intro e; exact h0 (by simpa using e.symm)

/-- A ring write of at most `cap` octets read back. -/
theorem Memory.readRing_writeRing_same (m : Memory) (cap t : Nat) (bs : List Octet) (h : bs.length ≤ cap) :
    (m.writeRing cap t bs).readRing cap t bs.length = bs := by
  induction bs generalizing m t with
  | nil => rfl
  | cons b bs ih =>
    simp only [List.length_cons] at h
    have hrest : (m.writeRing cap t (b :: bs)).readRing cap (t + 1) bs.length = bs := by
      simpa [Memory.writeRing] using ih (m.write (t % cap) b) (t + 1) (by omega)
    have hhead : (m.writeRing cap t (b :: bs)).read (t % cap) = b := by
      simp only [Memory.writeRing]
      rw [Memory.read_writeRing_of_ne]
      · simp
      · intro i hi e
        have e1 : (t + (1 + i)) % cap = t % cap := by simpa [Nat.add_assoc] using e
        have e2 : (t + (1 + i)) ≡ t + 0 [MOD cap] := e1
        have e3 : (1 + i) ≡ 0 [MOD cap] := Nat.ModEq.add_left_cancel' t e2
        have e4 : (1 + i) % cap = 0 := by simpa [Nat.ModEq] using e3
        rw [Nat.mod_eq_of_lt (by omega)] at e4
        omega
    have hsplit := Memory.readRing_add (m.writeRing cap t (b :: bs)) cap t 1 bs.length
    rw [show (b :: bs).length = 1 + bs.length by simp; omega, hsplit]
    have e1 : (m.writeRing cap t (b :: bs)).readRing cap t 1 = [b] := by
      simp [Memory.readRing, hhead]
    have e2 : (m.writeRing cap t (b :: bs)).readRing cap ((t + 1) % cap) bs.length
        = (m.writeRing cap t (b :: bs)).readRing cap (t + 1) bs.length := by
      simp [Memory.readRing]
    rw [e1, e2, hrest]; rfl

/-! ### The canonical form and the bounds -/

theorem Memory.wfFrom_mono {lo lo' : Nat} {m : Memory} (h : lo' ≤ lo) (w : Memory.wfFrom lo m = true) :
    Memory.wfFrom lo' m = true := by
  cases m with
  | nil => rfl
  | cons c m =>
    obtain ⟨k, v⟩ := c
    simp only [Memory.wfFrom, Bool.and_eq_true, decide_eq_true_eq] at w ⊢
    exact ⟨⟨by omega, w.1.2⟩, w.2⟩

theorem Memory.wfFrom_filter {lo : Nat} {m : Memory} (p : Host.Cell → Bool) (w : Memory.wfFrom lo m = true) :
    Memory.wfFrom lo (m.filter p) = true := by
  induction m generalizing lo with
  | nil => rfl
  | cons c m ih =>
    obtain ⟨k, v⟩ := c
    simp only [Memory.wfFrom, Bool.and_eq_true, decide_eq_true_eq] at w
    simp only [List.filter_cons]
    split
    · simp only [Memory.wfFrom, Bool.and_eq_true, decide_eq_true_eq]
      exact ⟨w.1, ih w.2⟩
    · exact Memory.wfFrom_mono (by omega) (ih w.2)

theorem Memory.wfFrom_insertCell {lo : Nat} {m : Memory} {a : Nat} {v : Octet} (w : Memory.wfFrom lo m = true)
    (hv : v ≠ 0#8) (ha : lo ≤ a) (hne : ∀ c ∈ m, c.1 ≠ a) : Memory.wfFrom lo (Memory.insertCell a v m) = true := by
  induction m generalizing lo with
  | nil => simp [Memory.insertCell, Memory.wfFrom, Config.unlistedOctet, hv, ha]
  | cons c m ih =>
    obtain ⟨k, y⟩ := c
    have hk : k ≠ a := hne (k, y) (by simp)
    simp only [Memory.wfFrom, Bool.and_eq_true, decide_eq_true_eq] at w
    simp only [Memory.insertCell]
    split
    · simp only [Memory.wfFrom, Bool.and_eq_true, decide_eq_true_eq]
      refine ⟨⟨ha, by simpa [Config.unlistedOctet] using hv⟩, ⟨⟨by omega, w.1.2⟩, w.2⟩⟩
    · simp only [Memory.wfFrom, Bool.and_eq_true, decide_eq_true_eq]
      exact ⟨w.1, ih w.2 (by omega) (fun c hc => hne c (by simp [hc]))⟩

/-- A write keeps the canonical form. -/
theorem Memory.wf_write {m : Memory} (w : m.wf = true) (a : Nat) (v : Octet) : (m.write a v).wf = true := by
  unfold Memory.write
  split
  · exact Memory.wfFrom_filter _ w
  · rename_i h
    exact Memory.wfFrom_insertCell (Memory.wfFrom_filter _ w) h (Nat.zero_le a) (by simp)

theorem Memory.wf_writeBytes {m : Memory} (w : m.wf = true) (a : Nat) (bs : List Octet) :
    (m.writeBytes a bs).wf = true := by
  induction bs generalizing m a with
  | nil => exact w
  | cons b bs ih => exact ih (Memory.wf_write w a b) (a + 1)

theorem Memory.wf_writeRing {m : Memory} (w : m.wf = true) (cap t : Nat) (bs : List Octet) :
    (m.writeRing cap t bs).wf = true := by
  induction bs generalizing m t with
  | nil => exact w
  | cons b bs ih => exact ih (Memory.wf_write w _ b) (t + 1)

@[simp] theorem Memory.wf_cleared : Memory.cleared.wf = true := rfl

theorem Memory.within_insertCell {m : Memory} {cap a : Nat} {v : Octet} (h : m.within cap = true) (ha : a < cap) :
    Memory.within (Memory.insertCell a v m) cap = true := by
  induction m with
  | nil => simp [Memory.insertCell, Memory.within, ha]
  | cons c m ih =>
    obtain ⟨k, y⟩ := c
    simp only [Memory.within, List.all_cons, Bool.and_eq_true, decide_eq_true_eq] at h ih ⊢
    simp only [Memory.insertCell]
    split
    · simp [ha, h.1, h.2]
    · simp only [List.all_cons, Bool.and_eq_true, decide_eq_true_eq]
      exact ⟨h.1, ih h.2⟩

/-- A write inside the capacity keeps the bounds. -/
theorem Memory.within_write {m : Memory} {cap a : Nat} (h : m.within cap = true) (ha : a < cap) (v : Octet) :
    (m.write a v).within cap = true := by
  have hf : Memory.within (m.filter (fun c => c.1 != a)) cap = true := by
    simp only [Memory.within, List.all_eq_true, List.mem_filter] at h ⊢
    exact fun c hc => h c hc.1
  unfold Memory.write
  split
  · exact hf
  · exact Memory.within_insertCell hf ha

/-- A canonical memory within its capacity stays so under a write inside the capacity. -/
theorem Memory.ok_write {m : Memory} {cap a : Nat} (h : m.ok cap = true) (ha : a < cap) (v : Octet) :
    (m.write a v).ok cap = true := by
  simp only [Memory.ok, Bool.and_eq_true] at h ⊢
  exact ⟨Memory.wf_write h.1 a v, Memory.within_write h.2 ha v⟩

theorem Memory.ok_writeBytes {m : Memory} {cap a : Nat} {bs : List Octet} (h : m.ok cap = true)
    (ha : a + bs.length ≤ cap) : (m.writeBytes a bs).ok cap = true := by
  induction bs generalizing m a with
  | nil => exact h
  | cons b bs ih =>
    simp only [List.length_cons] at ha
    exact ih (Memory.ok_write h (by omega) b) (by omega)

theorem Memory.ok_writeRing {m : Memory} {cap : Nat} (h : m.ok cap = true) (hc : 0 < cap) (t : Nat)
    (bs : List Octet) : (m.writeRing cap t bs).ok cap = true := by
  induction bs generalizing m t with
  | nil => exact h
  | cons b bs ih => exact ih (Memory.ok_write h (Nat.mod_lt _ hc) b) (t + 1)

/-- Every memory of the state after reset has the canonical form (10_state.md R31). -/
theorem State.reset_memories_wf : State.reset.cltu.wf = true ∧ State.reset.tcbuf.wf = true ∧
    State.reset.paybuf.wf = true ∧ State.reset.inbuf.wf = true ∧ State.reset.asmbuf.wf = true ∧
    State.reset.cadu.wf = true ∧ State.reset.chans.all (fun c => c.frm.wf && c.ovf.wf) = true := by decide

@[simp] theorem Memory.ok_nil (cap : Nat) : Memory.ok [] cap = true := rfl

@[simp] theorem Memory.ok_cleared (cap : Nat) : Memory.cleared.ok cap = true := rfl

end Sys2Proof.Machine
end

