-- ==== Sys2Proof/Laws/State.lean ====
section
/-! SUPPORT. One lemma per field per update of the state and of a channel context. -/

namespace Sys2Proof.Machine

/-! ### `State.respond` -/

@[simp] theorem State.respond_params (s : State) (st : Status) (v : Word) : (s.respond st v).params = s.params := rfl
@[simp] theorem State.respond_hostIn (s : State) (st : Status) (v : Word) : (s.respond st v).hostIn = s.hostIn := rfl
@[simp] theorem State.respond_rspValid (s : State) (st : Status) (v : Word) : (s.respond st v).rspValid = true := rfl
@[simp] theorem State.respond_status (s : State) (st : Status) (v : Word) : (s.respond st v).status = statusCode st := rfl
@[simp] theorem State.respond_result (s : State) (st : Status) (v : Word) : (s.respond st v).result = v := rfl
@[simp] theorem State.respond_clcw (s : State) (st : Status) (v : Word) : (s.respond st v).clcw = s.clcw := rfl
@[simp] theorem State.respond_tcLen (s : State) (st : Status) (v : Word) : (s.respond st v).tcLen = s.tcLen := rfl
@[simp] theorem State.respond_payLen (s : State) (st : Status) (v : Word) : (s.respond st v).payLen = s.payLen := rfl
@[simp] theorem State.respond_caduLen (s : State) (st : Status) (v : Word) : (s.respond st v).caduLen = s.caduLen := rfl
@[simp] theorem State.respond_mcfc (s : State) (st : Status) (v : Word) : (s.respond st v).mcfc = s.mcfc := rfl
@[simp] theorem State.respond_cltu (s : State) (st : Status) (v : Word) : (s.respond st v).cltu = s.cltu := rfl
@[simp] theorem State.respond_tcbuf (s : State) (st : Status) (v : Word) : (s.respond st v).tcbuf = s.tcbuf := rfl
@[simp] theorem State.respond_paybuf (s : State) (st : Status) (v : Word) : (s.respond st v).paybuf = s.paybuf := rfl
@[simp] theorem State.respond_inbuf (s : State) (st : Status) (v : Word) : (s.respond st v).inbuf = s.inbuf := rfl
@[simp] theorem State.respond_asmbuf (s : State) (st : Status) (v : Word) : (s.respond st v).asmbuf = s.asmbuf := rfl
@[simp] theorem State.respond_cadu (s : State) (st : Status) (v : Word) : (s.respond st v).cadu = s.cadu := rfl
@[simp] theorem State.respond_chans (s : State) (st : Status) (v : Word) : (s.respond st v).chans = s.chans := rfl

/-! ### `State.setChannel` -/

@[simp] theorem State.setChannel_params (s : State) (ch : BitVec 8) (c : Channel) : (s.setChannel ch c).params = s.params := rfl
@[simp] theorem State.setChannel_hostIn (s : State) (ch : BitVec 8) (c : Channel) : (s.setChannel ch c).hostIn = s.hostIn := rfl
@[simp] theorem State.setChannel_rspValid (s : State) (ch : BitVec 8) (c : Channel) : (s.setChannel ch c).rspValid = s.rspValid := rfl
@[simp] theorem State.setChannel_status (s : State) (ch : BitVec 8) (c : Channel) : (s.setChannel ch c).status = s.status := rfl
@[simp] theorem State.setChannel_result (s : State) (ch : BitVec 8) (c : Channel) : (s.setChannel ch c).result = s.result := rfl
@[simp] theorem State.setChannel_clcw (s : State) (ch : BitVec 8) (c : Channel) : (s.setChannel ch c).clcw = s.clcw := rfl
@[simp] theorem State.setChannel_tcLen (s : State) (ch : BitVec 8) (c : Channel) : (s.setChannel ch c).tcLen = s.tcLen := rfl
@[simp] theorem State.setChannel_payLen (s : State) (ch : BitVec 8) (c : Channel) : (s.setChannel ch c).payLen = s.payLen := rfl
@[simp] theorem State.setChannel_caduLen (s : State) (ch : BitVec 8) (c : Channel) : (s.setChannel ch c).caduLen = s.caduLen := rfl
@[simp] theorem State.setChannel_mcfc (s : State) (ch : BitVec 8) (c : Channel) : (s.setChannel ch c).mcfc = s.mcfc := rfl
@[simp] theorem State.setChannel_cltu (s : State) (ch : BitVec 8) (c : Channel) : (s.setChannel ch c).cltu = s.cltu := rfl
@[simp] theorem State.setChannel_tcbuf (s : State) (ch : BitVec 8) (c : Channel) : (s.setChannel ch c).tcbuf = s.tcbuf := rfl
@[simp] theorem State.setChannel_paybuf (s : State) (ch : BitVec 8) (c : Channel) : (s.setChannel ch c).paybuf = s.paybuf := rfl
@[simp] theorem State.setChannel_inbuf (s : State) (ch : BitVec 8) (c : Channel) : (s.setChannel ch c).inbuf = s.inbuf := rfl
@[simp] theorem State.setChannel_asmbuf (s : State) (ch : BitVec 8) (c : Channel) : (s.setChannel ch c).asmbuf = s.asmbuf := rfl
@[simp] theorem State.setChannel_cadu (s : State) (ch : BitVec 8) (c : Channel) : (s.setChannel ch c).cadu = s.cadu := rfl
@[simp] theorem State.setChannel_chans (s : State) (ch : BitVec 8) (c : Channel) : (s.setChannel ch c).chans = s.chans.set ch.toNat c := rfl

/-! ### `State.setFrame` -/

@[simp] theorem State.setFrame_params (s : State) (ch : BitVec 8) (c : Channel) (f : Memory) : (s.setFrame ch c f).params = s.params := rfl
@[simp] theorem State.setFrame_hostIn (s : State) (ch : BitVec 8) (c : Channel) (f : Memory) : (s.setFrame ch c f).hostIn = s.hostIn := rfl
@[simp] theorem State.setFrame_rspValid (s : State) (ch : BitVec 8) (c : Channel) (f : Memory) : (s.setFrame ch c f).rspValid = s.rspValid := rfl
@[simp] theorem State.setFrame_status (s : State) (ch : BitVec 8) (c : Channel) (f : Memory) : (s.setFrame ch c f).status = s.status := rfl
@[simp] theorem State.setFrame_result (s : State) (ch : BitVec 8) (c : Channel) (f : Memory) : (s.setFrame ch c f).result = s.result := rfl
@[simp] theorem State.setFrame_clcw (s : State) (ch : BitVec 8) (c : Channel) (f : Memory) : (s.setFrame ch c f).clcw = s.clcw := rfl
@[simp] theorem State.setFrame_tcLen (s : State) (ch : BitVec 8) (c : Channel) (f : Memory) : (s.setFrame ch c f).tcLen = s.tcLen := rfl
@[simp] theorem State.setFrame_payLen (s : State) (ch : BitVec 8) (c : Channel) (f : Memory) : (s.setFrame ch c f).payLen = s.payLen := rfl
@[simp] theorem State.setFrame_caduLen (s : State) (ch : BitVec 8) (c : Channel) (f : Memory) : (s.setFrame ch c f).caduLen = s.caduLen := rfl
@[simp] theorem State.setFrame_mcfc (s : State) (ch : BitVec 8) (c : Channel) (f : Memory) : (s.setFrame ch c f).mcfc = s.mcfc := rfl
@[simp] theorem State.setFrame_cltu (s : State) (ch : BitVec 8) (c : Channel) (f : Memory) : (s.setFrame ch c f).cltu = s.cltu := rfl
@[simp] theorem State.setFrame_tcbuf (s : State) (ch : BitVec 8) (c : Channel) (f : Memory) : (s.setFrame ch c f).tcbuf = s.tcbuf := rfl
@[simp] theorem State.setFrame_paybuf (s : State) (ch : BitVec 8) (c : Channel) (f : Memory) : (s.setFrame ch c f).paybuf = s.paybuf := rfl
@[simp] theorem State.setFrame_inbuf (s : State) (ch : BitVec 8) (c : Channel) (f : Memory) : (s.setFrame ch c f).inbuf = s.inbuf := rfl
@[simp] theorem State.setFrame_asmbuf (s : State) (ch : BitVec 8) (c : Channel) (f : Memory) : (s.setFrame ch c f).asmbuf = s.asmbuf := rfl
@[simp] theorem State.setFrame_cadu (s : State) (ch : BitVec 8) (c : Channel) (f : Memory) : (s.setFrame ch c f).cadu = s.cadu := rfl
@[simp] theorem State.setFrame_chans (s : State) (ch : BitVec 8) (c : Channel) (f : Memory) : (s.setFrame ch c f).chans = s.chans.set ch.toNat { c with frm := f } := rfl

/-! ### `State.setClcw` -/

@[simp] theorem State.setClcw_params (s : State) (c : Clcw) : (s.setClcw c).params = s.params := rfl
@[simp] theorem State.setClcw_hostIn (s : State) (c : Clcw) : (s.setClcw c).hostIn = s.hostIn := rfl
@[simp] theorem State.setClcw_rspValid (s : State) (c : Clcw) : (s.setClcw c).rspValid = s.rspValid := rfl
@[simp] theorem State.setClcw_status (s : State) (c : Clcw) : (s.setClcw c).status = s.status := rfl
@[simp] theorem State.setClcw_result (s : State) (c : Clcw) : (s.setClcw c).result = s.result := rfl
@[simp] theorem State.setClcw_clcw (s : State) (c : Clcw) : (s.setClcw c).clcw = c := rfl
@[simp] theorem State.setClcw_tcLen (s : State) (c : Clcw) : (s.setClcw c).tcLen = s.tcLen := rfl
@[simp] theorem State.setClcw_payLen (s : State) (c : Clcw) : (s.setClcw c).payLen = s.payLen := rfl
@[simp] theorem State.setClcw_caduLen (s : State) (c : Clcw) : (s.setClcw c).caduLen = s.caduLen := rfl
@[simp] theorem State.setClcw_mcfc (s : State) (c : Clcw) : (s.setClcw c).mcfc = s.mcfc := rfl
@[simp] theorem State.setClcw_cltu (s : State) (c : Clcw) : (s.setClcw c).cltu = s.cltu := rfl
@[simp] theorem State.setClcw_tcbuf (s : State) (c : Clcw) : (s.setClcw c).tcbuf = s.tcbuf := rfl
@[simp] theorem State.setClcw_paybuf (s : State) (c : Clcw) : (s.setClcw c).paybuf = s.paybuf := rfl
@[simp] theorem State.setClcw_inbuf (s : State) (c : Clcw) : (s.setClcw c).inbuf = s.inbuf := rfl
@[simp] theorem State.setClcw_asmbuf (s : State) (c : Clcw) : (s.setClcw c).asmbuf = s.asmbuf := rfl
@[simp] theorem State.setClcw_cadu (s : State) (c : Clcw) : (s.setClcw c).cadu = s.cadu := rfl
@[simp] theorem State.setClcw_chans (s : State) (c : Clcw) : (s.setClcw c).chans = s.chans := rfl

/-! ### `State.setMcfc` -/

@[simp] theorem State.setMcfc_params (s : State) (v : BitVec 8) : (s.setMcfc v).params = s.params := rfl
@[simp] theorem State.setMcfc_hostIn (s : State) (v : BitVec 8) : (s.setMcfc v).hostIn = s.hostIn := rfl
@[simp] theorem State.setMcfc_rspValid (s : State) (v : BitVec 8) : (s.setMcfc v).rspValid = s.rspValid := rfl
@[simp] theorem State.setMcfc_status (s : State) (v : BitVec 8) : (s.setMcfc v).status = s.status := rfl
@[simp] theorem State.setMcfc_result (s : State) (v : BitVec 8) : (s.setMcfc v).result = s.result := rfl
@[simp] theorem State.setMcfc_clcw (s : State) (v : BitVec 8) : (s.setMcfc v).clcw = s.clcw := rfl
@[simp] theorem State.setMcfc_tcLen (s : State) (v : BitVec 8) : (s.setMcfc v).tcLen = s.tcLen := rfl
@[simp] theorem State.setMcfc_payLen (s : State) (v : BitVec 8) : (s.setMcfc v).payLen = s.payLen := rfl
@[simp] theorem State.setMcfc_caduLen (s : State) (v : BitVec 8) : (s.setMcfc v).caduLen = s.caduLen := rfl
@[simp] theorem State.setMcfc_mcfc (s : State) (v : BitVec 8) : (s.setMcfc v).mcfc = v := rfl
@[simp] theorem State.setMcfc_cltu (s : State) (v : BitVec 8) : (s.setMcfc v).cltu = s.cltu := rfl
@[simp] theorem State.setMcfc_tcbuf (s : State) (v : BitVec 8) : (s.setMcfc v).tcbuf = s.tcbuf := rfl
@[simp] theorem State.setMcfc_paybuf (s : State) (v : BitVec 8) : (s.setMcfc v).paybuf = s.paybuf := rfl
@[simp] theorem State.setMcfc_inbuf (s : State) (v : BitVec 8) : (s.setMcfc v).inbuf = s.inbuf := rfl
@[simp] theorem State.setMcfc_asmbuf (s : State) (v : BitVec 8) : (s.setMcfc v).asmbuf = s.asmbuf := rfl
@[simp] theorem State.setMcfc_cadu (s : State) (v : BitVec 8) : (s.setMcfc v).cadu = s.cadu := rfl
@[simp] theorem State.setMcfc_chans (s : State) (v : BitVec 8) : (s.setMcfc v).chans = s.chans := rfl

/-! ### `State.withHostIn` -/

@[simp] theorem State.withHostIn_params (s : State) (h : List HostEvent) : (s.withHostIn h).params = s.params := rfl
@[simp] theorem State.withHostIn_hostIn (s : State) (h : List HostEvent) : (s.withHostIn h).hostIn = h := rfl
@[simp] theorem State.withHostIn_rspValid (s : State) (h : List HostEvent) : (s.withHostIn h).rspValid = s.rspValid := rfl
@[simp] theorem State.withHostIn_status (s : State) (h : List HostEvent) : (s.withHostIn h).status = s.status := rfl
@[simp] theorem State.withHostIn_result (s : State) (h : List HostEvent) : (s.withHostIn h).result = s.result := rfl
@[simp] theorem State.withHostIn_clcw (s : State) (h : List HostEvent) : (s.withHostIn h).clcw = s.clcw := rfl
@[simp] theorem State.withHostIn_tcLen (s : State) (h : List HostEvent) : (s.withHostIn h).tcLen = s.tcLen := rfl
@[simp] theorem State.withHostIn_payLen (s : State) (h : List HostEvent) : (s.withHostIn h).payLen = s.payLen := rfl
@[simp] theorem State.withHostIn_caduLen (s : State) (h : List HostEvent) : (s.withHostIn h).caduLen = s.caduLen := rfl
@[simp] theorem State.withHostIn_mcfc (s : State) (h : List HostEvent) : (s.withHostIn h).mcfc = s.mcfc := rfl
@[simp] theorem State.withHostIn_cltu (s : State) (h : List HostEvent) : (s.withHostIn h).cltu = s.cltu := rfl
@[simp] theorem State.withHostIn_tcbuf (s : State) (h : List HostEvent) : (s.withHostIn h).tcbuf = s.tcbuf := rfl
@[simp] theorem State.withHostIn_paybuf (s : State) (h : List HostEvent) : (s.withHostIn h).paybuf = s.paybuf := rfl
@[simp] theorem State.withHostIn_inbuf (s : State) (h : List HostEvent) : (s.withHostIn h).inbuf = s.inbuf := rfl
@[simp] theorem State.withHostIn_asmbuf (s : State) (h : List HostEvent) : (s.withHostIn h).asmbuf = s.asmbuf := rfl
@[simp] theorem State.withHostIn_cadu (s : State) (h : List HostEvent) : (s.withHostIn h).cadu = s.cadu := rfl
@[simp] theorem State.withHostIn_chans (s : State) (h : List HostEvent) : (s.withHostIn h).chans = s.chans := rfl

/-! ### `State.idle` -/

@[simp] theorem State.idle_params (s : State) : (s.idle).params = s.params := rfl
@[simp] theorem State.idle_hostIn (s : State) : (s.idle).hostIn = s.hostIn := rfl
@[simp] theorem State.idle_rspValid (s : State) : (s.idle).rspValid = false := rfl
@[simp] theorem State.idle_status (s : State) : (s.idle).status = s.status := rfl
@[simp] theorem State.idle_result (s : State) : (s.idle).result = s.result := rfl
@[simp] theorem State.idle_clcw (s : State) : (s.idle).clcw = s.clcw := rfl
@[simp] theorem State.idle_tcLen (s : State) : (s.idle).tcLen = s.tcLen := rfl
@[simp] theorem State.idle_payLen (s : State) : (s.idle).payLen = s.payLen := rfl
@[simp] theorem State.idle_caduLen (s : State) : (s.idle).caduLen = s.caduLen := rfl
@[simp] theorem State.idle_mcfc (s : State) : (s.idle).mcfc = s.mcfc := rfl
@[simp] theorem State.idle_cltu (s : State) : (s.idle).cltu = s.cltu := rfl
@[simp] theorem State.idle_tcbuf (s : State) : (s.idle).tcbuf = s.tcbuf := rfl
@[simp] theorem State.idle_paybuf (s : State) : (s.idle).paybuf = s.paybuf := rfl
@[simp] theorem State.idle_inbuf (s : State) : (s.idle).inbuf = s.inbuf := rfl
@[simp] theorem State.idle_asmbuf (s : State) : (s.idle).asmbuf = s.asmbuf := rfl
@[simp] theorem State.idle_cadu (s : State) : (s.idle).cadu = s.cadu := rfl
@[simp] theorem State.idle_chans (s : State) : (s.idle).chans = s.chans := rfl

/-! ### `State.copyPayload` -/

@[simp] theorem State.copyPayload_params (s : State) (d : ServiceDescriptor) : (s.copyPayload d).params = s.params := rfl
@[simp] theorem State.copyPayload_hostIn (s : State) (d : ServiceDescriptor) : (s.copyPayload d).hostIn = s.hostIn := rfl
@[simp] theorem State.copyPayload_rspValid (s : State) (d : ServiceDescriptor) : (s.copyPayload d).rspValid = s.rspValid := rfl
@[simp] theorem State.copyPayload_status (s : State) (d : ServiceDescriptor) : (s.copyPayload d).status = s.status := rfl
@[simp] theorem State.copyPayload_result (s : State) (d : ServiceDescriptor) : (s.copyPayload d).result = s.result := rfl
@[simp] theorem State.copyPayload_clcw (s : State) (d : ServiceDescriptor) : (s.copyPayload d).clcw = s.clcw := rfl
@[simp] theorem State.copyPayload_tcLen (s : State) (d : ServiceDescriptor) : (s.copyPayload d).tcLen = s.tcLen := rfl
@[simp] theorem State.copyPayload_payLen (s : State) (d : ServiceDescriptor) : (s.copyPayload d).payLen = BitVec.ofNat 16 (tcPayloadLen s.tcbuf d) := rfl
@[simp] theorem State.copyPayload_caduLen (s : State) (d : ServiceDescriptor) : (s.copyPayload d).caduLen = s.caduLen := rfl
@[simp] theorem State.copyPayload_mcfc (s : State) (d : ServiceDescriptor) : (s.copyPayload d).mcfc = s.mcfc := rfl
@[simp] theorem State.copyPayload_cltu (s : State) (d : ServiceDescriptor) : (s.copyPayload d).cltu = s.cltu := rfl
@[simp] theorem State.copyPayload_tcbuf (s : State) (d : ServiceDescriptor) : (s.copyPayload d).tcbuf = s.tcbuf := rfl
@[simp] theorem State.copyPayload_paybuf (s : State) (d : ServiceDescriptor) : (s.copyPayload d).paybuf = s.paybuf.writeBytes 0 (tcPayload s.tcbuf d) := rfl
@[simp] theorem State.copyPayload_inbuf (s : State) (d : ServiceDescriptor) : (s.copyPayload d).inbuf = s.inbuf := rfl
@[simp] theorem State.copyPayload_asmbuf (s : State) (d : ServiceDescriptor) : (s.copyPayload d).asmbuf = s.asmbuf := rfl
@[simp] theorem State.copyPayload_cadu (s : State) (d : ServiceDescriptor) : (s.copyPayload d).cadu = s.cadu := rfl
@[simp] theorem State.copyPayload_chans (s : State) (d : ServiceDescriptor) : (s.copyPayload d).chans = s.chans := rfl

/-! ### `State.commitTcFrame` -/

@[simp] theorem State.commitTcFrame_params (s : State) (t : List Octet) : (s.commitTcFrame t).params = s.params := rfl
@[simp] theorem State.commitTcFrame_hostIn (s : State) (t : List Octet) : (s.commitTcFrame t).hostIn = s.hostIn := rfl
@[simp] theorem State.commitTcFrame_rspValid (s : State) (t : List Octet) : (s.commitTcFrame t).rspValid = s.rspValid := rfl
@[simp] theorem State.commitTcFrame_status (s : State) (t : List Octet) : (s.commitTcFrame t).status = s.status := rfl
@[simp] theorem State.commitTcFrame_result (s : State) (t : List Octet) : (s.commitTcFrame t).result = s.result := rfl
@[simp] theorem State.commitTcFrame_clcw (s : State) (t : List Octet) : (s.commitTcFrame t).clcw = s.clcw := rfl
@[simp] theorem State.commitTcFrame_tcLen (s : State) (t : List Octet) : (s.commitTcFrame t).tcLen = BitVec.ofNat 16 t.length := rfl
@[simp] theorem State.commitTcFrame_payLen (s : State) (t : List Octet) : (s.commitTcFrame t).payLen = s.payLen := rfl
@[simp] theorem State.commitTcFrame_caduLen (s : State) (t : List Octet) : (s.commitTcFrame t).caduLen = s.caduLen := rfl
@[simp] theorem State.commitTcFrame_mcfc (s : State) (t : List Octet) : (s.commitTcFrame t).mcfc = s.mcfc := rfl
@[simp] theorem State.commitTcFrame_cltu (s : State) (t : List Octet) : (s.commitTcFrame t).cltu = s.cltu := rfl
@[simp] theorem State.commitTcFrame_tcbuf (s : State) (t : List Octet) : (s.commitTcFrame t).tcbuf = s.tcbuf.writeBytes 0 t := rfl
@[simp] theorem State.commitTcFrame_paybuf (s : State) (t : List Octet) : (s.commitTcFrame t).paybuf = s.paybuf := rfl
@[simp] theorem State.commitTcFrame_inbuf (s : State) (t : List Octet) : (s.commitTcFrame t).inbuf = s.inbuf := rfl
@[simp] theorem State.commitTcFrame_asmbuf (s : State) (t : List Octet) : (s.commitTcFrame t).asmbuf = s.asmbuf := rfl
@[simp] theorem State.commitTcFrame_cadu (s : State) (t : List Octet) : (s.commitTcFrame t).cadu = s.cadu := rfl
@[simp] theorem State.commitTcFrame_chans (s : State) (t : List Octet) : (s.commitTcFrame t).chans = s.chans := rfl

/-! ### `State.setCadu` -/

@[simp] theorem State.setCadu_params (s : State) (bs : List Octet) : (s.setCadu bs).params = s.params := rfl
@[simp] theorem State.setCadu_hostIn (s : State) (bs : List Octet) : (s.setCadu bs).hostIn = s.hostIn := rfl
@[simp] theorem State.setCadu_rspValid (s : State) (bs : List Octet) : (s.setCadu bs).rspValid = s.rspValid := rfl
@[simp] theorem State.setCadu_status (s : State) (bs : List Octet) : (s.setCadu bs).status = s.status := rfl
@[simp] theorem State.setCadu_result (s : State) (bs : List Octet) : (s.setCadu bs).result = s.result := rfl
@[simp] theorem State.setCadu_clcw (s : State) (bs : List Octet) : (s.setCadu bs).clcw = s.clcw := rfl
@[simp] theorem State.setCadu_tcLen (s : State) (bs : List Octet) : (s.setCadu bs).tcLen = s.tcLen := rfl
@[simp] theorem State.setCadu_payLen (s : State) (bs : List Octet) : (s.setCadu bs).payLen = s.payLen := rfl
@[simp] theorem State.setCadu_caduLen (s : State) (bs : List Octet) : (s.setCadu bs).caduLen = BitVec.ofNat 16 bs.length := rfl
@[simp] theorem State.setCadu_mcfc (s : State) (bs : List Octet) : (s.setCadu bs).mcfc = s.mcfc := rfl
@[simp] theorem State.setCadu_cltu (s : State) (bs : List Octet) : (s.setCadu bs).cltu = s.cltu := rfl
@[simp] theorem State.setCadu_tcbuf (s : State) (bs : List Octet) : (s.setCadu bs).tcbuf = s.tcbuf := rfl
@[simp] theorem State.setCadu_paybuf (s : State) (bs : List Octet) : (s.setCadu bs).paybuf = s.paybuf := rfl
@[simp] theorem State.setCadu_inbuf (s : State) (bs : List Octet) : (s.setCadu bs).inbuf = s.inbuf := rfl
@[simp] theorem State.setCadu_asmbuf (s : State) (bs : List Octet) : (s.setCadu bs).asmbuf = s.asmbuf := rfl
@[simp] theorem State.setCadu_cadu (s : State) (bs : List Octet) : (s.setCadu bs).cadu = s.cadu.writeBytes 0 bs := rfl
@[simp] theorem State.setCadu_chans (s : State) (bs : List Octet) : (s.setCadu bs).chans = s.chans := rfl

/-! ### `State.setSpaceBuffer` -/

@[simp] theorem State.setSpaceBuffer_params (s : State) (ch : BitVec 8) (m : Memory) (sp : Space) :
    (s.setSpaceBuffer ch m sp).params = s.params := by cases sp <;> rfl
@[simp] theorem State.setSpaceBuffer_hostIn (s : State) (ch : BitVec 8) (m : Memory) (sp : Space) :
    (s.setSpaceBuffer ch m sp).hostIn = s.hostIn := by cases sp <;> rfl
@[simp] theorem State.setSpaceBuffer_rspValid (s : State) (ch : BitVec 8) (m : Memory) (sp : Space) :
    (s.setSpaceBuffer ch m sp).rspValid = s.rspValid := by cases sp <;> rfl
@[simp] theorem State.setSpaceBuffer_status (s : State) (ch : BitVec 8) (m : Memory) (sp : Space) :
    (s.setSpaceBuffer ch m sp).status = s.status := by cases sp <;> rfl
@[simp] theorem State.setSpaceBuffer_result (s : State) (ch : BitVec 8) (m : Memory) (sp : Space) :
    (s.setSpaceBuffer ch m sp).result = s.result := by cases sp <;> rfl
@[simp] theorem State.setSpaceBuffer_clcw (s : State) (ch : BitVec 8) (m : Memory) (sp : Space) :
    (s.setSpaceBuffer ch m sp).clcw = s.clcw := by cases sp <;> rfl
@[simp] theorem State.setSpaceBuffer_tcLen (s : State) (ch : BitVec 8) (m : Memory) (sp : Space) :
    (s.setSpaceBuffer ch m sp).tcLen = s.tcLen := by cases sp <;> rfl
@[simp] theorem State.setSpaceBuffer_payLen (s : State) (ch : BitVec 8) (m : Memory) (sp : Space) :
    (s.setSpaceBuffer ch m sp).payLen = s.payLen := by cases sp <;> rfl
@[simp] theorem State.setSpaceBuffer_caduLen (s : State) (ch : BitVec 8) (m : Memory) (sp : Space) :
    (s.setSpaceBuffer ch m sp).caduLen = s.caduLen := by cases sp <;> rfl
@[simp] theorem State.setSpaceBuffer_mcfc (s : State) (ch : BitVec 8) (m : Memory) (sp : Space) :
    (s.setSpaceBuffer ch m sp).mcfc = s.mcfc := by cases sp <;> rfl

/-! ### `Channel.place` -/

@[simp] theorem Channel.place_frameLen (c : Channel) (bs : List Octet) : (c.place bs).frameLen = c.frameLen := rfl
@[simp] theorem Channel.place_scid (c : Channel) (bs : List Octet) : (c.place bs).scid = c.scid := rfl
@[simp] theorem Channel.place_fecfFlag (c : Channel) (bs : List Octet) : (c.place bs).fecfFlag = c.fecfFlag := rfl
@[simp] theorem Channel.place_vcid (c : Channel) (bs : List Octet) : (c.place bs).vcid = c.vcid := rfl
@[simp] theorem Channel.place_ocfFlag (c : Channel) (bs : List Octet) : (c.place bs).ocfFlag = c.ocfFlag := rfl
@[simp] theorem Channel.place_sechdrFlag (c : Channel) (bs : List Octet) : (c.place bs).sechdrFlag = c.sechdrFlag := rfl
@[simp] theorem Channel.place_sechdrLen (c : Channel) (bs : List Octet) : (c.place bs).sechdrLen = c.sechdrLen := rfl
@[simp] theorem Channel.place_vca (c : Channel) (bs : List Octet) : (c.place bs).vca = c.vca := rfl
@[simp] theorem Channel.place_isVc (c : Channel) (bs : List Octet) : (c.place bs).isVc = c.isVc := rfl
@[simp] theorem Channel.place_dataOff (c : Channel) (bs : List Octet) : (c.place bs).dataOff = c.dataOff := rfl
@[simp] theorem Channel.place_dataLen (c : Channel) (bs : List Octet) : (c.place bs).dataLen = c.dataLen := rfl
@[simp] theorem Channel.place_ocfOff (c : Channel) (bs : List Octet) : (c.place bs).ocfOff = c.ocfOff := rfl
@[simp] theorem Channel.place_fecfOff (c : Channel) (bs : List Octet) : (c.place bs).fecfOff = c.fecfOff := rfl
@[simp] theorem Channel.place_isInit (c : Channel) (bs : List Octet) : (c.place bs).isInit = c.isInit := rfl
@[simp] theorem Channel.place_isReady (c : Channel) (bs : List Octet) : (c.place bs).isReady = c.isReady := rfl
@[simp] theorem Channel.place_fhpSet (c : Channel) (bs : List Octet) : (c.place bs).fhpSet = c.fhpSet := rfl
@[simp] theorem Channel.place_free (c : Channel) (bs : List Octet) : (c.place bs).free = BitVec.ofNat 16 (c.free.toNat - bs.length) := rfl
@[simp] theorem Channel.place_cur (c : Channel) (bs : List Octet) : (c.place bs).cur = BitVec.ofNat 16 (c.cur.toNat + bs.length) := rfl
@[simp] theorem Channel.place_vcfc (c : Channel) (bs : List Octet) : (c.place bs).vcfc = c.vcfc := rfl
@[simp] theorem Channel.place_frm (c : Channel) (bs : List Octet) : (c.place bs).frm = c.frm.writeBytes c.cur.toNat bs := rfl
@[simp] theorem Channel.place_ovf (c : Channel) (bs : List Octet) : (c.place bs).ovf = c.ovf := rfl
@[simp] theorem Channel.place_ovfHead (c : Channel) (bs : List Octet) : (c.place bs).ovfHead = c.ovfHead := rfl
@[simp] theorem Channel.place_ovfFree (c : Channel) (bs : List Octet) : (c.place bs).ovfFree = c.ovfFree := rfl
@[simp] theorem Channel.place_seg (c : Channel) (bs : List Octet) : (c.place bs).seg = c.seg := rfl

/-! ### `Channel.dropFromRing` -/

@[simp] theorem Channel.dropFromRing_frameLen (p : Params) (c : Channel) (n : Nat) : (c.dropFromRing p n).frameLen = c.frameLen := rfl
@[simp] theorem Channel.dropFromRing_scid (p : Params) (c : Channel) (n : Nat) : (c.dropFromRing p n).scid = c.scid := rfl
@[simp] theorem Channel.dropFromRing_fecfFlag (p : Params) (c : Channel) (n : Nat) : (c.dropFromRing p n).fecfFlag = c.fecfFlag := rfl
@[simp] theorem Channel.dropFromRing_vcid (p : Params) (c : Channel) (n : Nat) : (c.dropFromRing p n).vcid = c.vcid := rfl
@[simp] theorem Channel.dropFromRing_ocfFlag (p : Params) (c : Channel) (n : Nat) : (c.dropFromRing p n).ocfFlag = c.ocfFlag := rfl
@[simp] theorem Channel.dropFromRing_sechdrFlag (p : Params) (c : Channel) (n : Nat) : (c.dropFromRing p n).sechdrFlag = c.sechdrFlag := rfl
@[simp] theorem Channel.dropFromRing_sechdrLen (p : Params) (c : Channel) (n : Nat) : (c.dropFromRing p n).sechdrLen = c.sechdrLen := rfl
@[simp] theorem Channel.dropFromRing_vca (p : Params) (c : Channel) (n : Nat) : (c.dropFromRing p n).vca = c.vca := rfl
@[simp] theorem Channel.dropFromRing_isVc (p : Params) (c : Channel) (n : Nat) : (c.dropFromRing p n).isVc = c.isVc := rfl
@[simp] theorem Channel.dropFromRing_dataOff (p : Params) (c : Channel) (n : Nat) : (c.dropFromRing p n).dataOff = c.dataOff := rfl
@[simp] theorem Channel.dropFromRing_dataLen (p : Params) (c : Channel) (n : Nat) : (c.dropFromRing p n).dataLen = c.dataLen := rfl
@[simp] theorem Channel.dropFromRing_ocfOff (p : Params) (c : Channel) (n : Nat) : (c.dropFromRing p n).ocfOff = c.ocfOff := rfl
@[simp] theorem Channel.dropFromRing_fecfOff (p : Params) (c : Channel) (n : Nat) : (c.dropFromRing p n).fecfOff = c.fecfOff := rfl
@[simp] theorem Channel.dropFromRing_isInit (p : Params) (c : Channel) (n : Nat) : (c.dropFromRing p n).isInit = c.isInit := rfl
@[simp] theorem Channel.dropFromRing_isReady (p : Params) (c : Channel) (n : Nat) : (c.dropFromRing p n).isReady = c.isReady := rfl
@[simp] theorem Channel.dropFromRing_fhpSet (p : Params) (c : Channel) (n : Nat) : (c.dropFromRing p n).fhpSet = c.fhpSet := rfl
@[simp] theorem Channel.dropFromRing_free (p : Params) (c : Channel) (n : Nat) : (c.dropFromRing p n).free = c.free := rfl
@[simp] theorem Channel.dropFromRing_cur (p : Params) (c : Channel) (n : Nat) : (c.dropFromRing p n).cur = c.cur := rfl
@[simp] theorem Channel.dropFromRing_vcfc (p : Params) (c : Channel) (n : Nat) : (c.dropFromRing p n).vcfc = c.vcfc := rfl
@[simp] theorem Channel.dropFromRing_frm (p : Params) (c : Channel) (n : Nat) : (c.dropFromRing p n).frm = c.frm := rfl
@[simp] theorem Channel.dropFromRing_ovf (p : Params) (c : Channel) (n : Nat) : (c.dropFromRing p n).ovf = c.ovf := rfl
@[simp] theorem Channel.dropFromRing_ovfHead (p : Params) (c : Channel) (n : Nat) : (c.dropFromRing p n).ovfHead = BitVec.ofNat 16 ((c.ovfHead.toNat + n) % p.ovfCap) := rfl
@[simp] theorem Channel.dropFromRing_ovfFree (p : Params) (c : Channel) (n : Nat) : (c.dropFromRing p n).ovfFree = BitVec.ofNat 17 (c.ovfFree.toNat + n) := rfl
@[simp] theorem Channel.dropFromRing_seg (p : Params) (c : Channel) (n : Nat) : (c.dropFromRing p n).seg = c.seg := rfl

/-! ### `Channel.complete` -/

@[simp] theorem Channel.complete_frameLen (c : Channel) (mc : BitVec 8) (ocf : Word) : (c.complete mc ocf).frameLen = c.frameLen := rfl
@[simp] theorem Channel.complete_scid (c : Channel) (mc : BitVec 8) (ocf : Word) : (c.complete mc ocf).scid = c.scid := rfl
@[simp] theorem Channel.complete_fecfFlag (c : Channel) (mc : BitVec 8) (ocf : Word) : (c.complete mc ocf).fecfFlag = c.fecfFlag := rfl
@[simp] theorem Channel.complete_vcid (c : Channel) (mc : BitVec 8) (ocf : Word) : (c.complete mc ocf).vcid = c.vcid := rfl
@[simp] theorem Channel.complete_ocfFlag (c : Channel) (mc : BitVec 8) (ocf : Word) : (c.complete mc ocf).ocfFlag = c.ocfFlag := rfl
@[simp] theorem Channel.complete_sechdrFlag (c : Channel) (mc : BitVec 8) (ocf : Word) : (c.complete mc ocf).sechdrFlag = c.sechdrFlag := rfl
@[simp] theorem Channel.complete_sechdrLen (c : Channel) (mc : BitVec 8) (ocf : Word) : (c.complete mc ocf).sechdrLen = c.sechdrLen := rfl
@[simp] theorem Channel.complete_vca (c : Channel) (mc : BitVec 8) (ocf : Word) : (c.complete mc ocf).vca = c.vca := rfl
@[simp] theorem Channel.complete_isVc (c : Channel) (mc : BitVec 8) (ocf : Word) : (c.complete mc ocf).isVc = c.isVc := rfl
@[simp] theorem Channel.complete_dataOff (c : Channel) (mc : BitVec 8) (ocf : Word) : (c.complete mc ocf).dataOff = c.dataOff := rfl
@[simp] theorem Channel.complete_dataLen (c : Channel) (mc : BitVec 8) (ocf : Word) : (c.complete mc ocf).dataLen = c.dataLen := rfl
@[simp] theorem Channel.complete_ocfOff (c : Channel) (mc : BitVec 8) (ocf : Word) : (c.complete mc ocf).ocfOff = c.ocfOff := rfl
@[simp] theorem Channel.complete_fecfOff (c : Channel) (mc : BitVec 8) (ocf : Word) : (c.complete mc ocf).fecfOff = c.fecfOff := rfl
@[simp] theorem Channel.complete_isInit (c : Channel) (mc : BitVec 8) (ocf : Word) : (c.complete mc ocf).isInit = c.isInit := rfl
@[simp] theorem Channel.complete_isReady (c : Channel) (mc : BitVec 8) (ocf : Word) : (c.complete mc ocf).isReady = false := rfl
@[simp] theorem Channel.complete_fhpSet (c : Channel) (mc : BitVec 8) (ocf : Word) : (c.complete mc ocf).fhpSet = false := rfl
@[simp] theorem Channel.complete_free (c : Channel) (mc : BitVec 8) (ocf : Word) : (c.complete mc ocf).free = c.dataLen := rfl
@[simp] theorem Channel.complete_cur (c : Channel) (mc : BitVec 8) (ocf : Word) : (c.complete mc ocf).cur = c.dataOff := rfl
@[simp] theorem Channel.complete_vcfc (c : Channel) (mc : BitVec 8) (ocf : Word) : (c.complete mc ocf).vcfc = if c.isVc then c.vcfc + 1 else c.vcfc := rfl
@[simp] theorem Channel.complete_frm (c : Channel) (mc : BitVec 8) (ocf : Word) : (c.complete mc ocf).frm = c.completedFrame mc ocf := rfl
@[simp] theorem Channel.complete_ovf (c : Channel) (mc : BitVec 8) (ocf : Word) : (c.complete mc ocf).ovf = c.ovf := rfl
@[simp] theorem Channel.complete_ovfHead (c : Channel) (mc : BitVec 8) (ocf : Word) : (c.complete mc ocf).ovfHead = c.ovfHead := rfl
@[simp] theorem Channel.complete_ovfFree (c : Channel) (mc : BitVec 8) (ocf : Word) : (c.complete mc ocf).ovfFree = c.ovfFree := rfl
@[simp] theorem Channel.complete_seg (c : Channel) (mc : BitVec 8) (ocf : Word) : (c.complete mc ocf).seg = c.seg := rfl

/-! ### `Channel.setFhpIfNeeded` -/

@[simp] theorem Channel.setFhpIfNeeded_frameLen (c : Channel) : c.setFhpIfNeeded.frameLen = c.frameLen := by
  unfold Channel.setFhpIfNeeded; split <;> rfl
@[simp] theorem Channel.setFhpIfNeeded_scid (c : Channel) : c.setFhpIfNeeded.scid = c.scid := by
  unfold Channel.setFhpIfNeeded; split <;> rfl
@[simp] theorem Channel.setFhpIfNeeded_fecfFlag (c : Channel) : c.setFhpIfNeeded.fecfFlag = c.fecfFlag := by
  unfold Channel.setFhpIfNeeded; split <;> rfl
@[simp] theorem Channel.setFhpIfNeeded_vcid (c : Channel) : c.setFhpIfNeeded.vcid = c.vcid := by
  unfold Channel.setFhpIfNeeded; split <;> rfl
@[simp] theorem Channel.setFhpIfNeeded_ocfFlag (c : Channel) : c.setFhpIfNeeded.ocfFlag = c.ocfFlag := by
  unfold Channel.setFhpIfNeeded; split <;> rfl
@[simp] theorem Channel.setFhpIfNeeded_sechdrFlag (c : Channel) : c.setFhpIfNeeded.sechdrFlag = c.sechdrFlag := by
  unfold Channel.setFhpIfNeeded; split <;> rfl
@[simp] theorem Channel.setFhpIfNeeded_sechdrLen (c : Channel) : c.setFhpIfNeeded.sechdrLen = c.sechdrLen := by
  unfold Channel.setFhpIfNeeded; split <;> rfl
@[simp] theorem Channel.setFhpIfNeeded_vca (c : Channel) : c.setFhpIfNeeded.vca = c.vca := by
  unfold Channel.setFhpIfNeeded; split <;> rfl
@[simp] theorem Channel.setFhpIfNeeded_isVc (c : Channel) : c.setFhpIfNeeded.isVc = c.isVc := by
  unfold Channel.setFhpIfNeeded; split <;> rfl
@[simp] theorem Channel.setFhpIfNeeded_dataOff (c : Channel) : c.setFhpIfNeeded.dataOff = c.dataOff := by
  unfold Channel.setFhpIfNeeded; split <;> rfl
@[simp] theorem Channel.setFhpIfNeeded_dataLen (c : Channel) : c.setFhpIfNeeded.dataLen = c.dataLen := by
  unfold Channel.setFhpIfNeeded; split <;> rfl
@[simp] theorem Channel.setFhpIfNeeded_ocfOff (c : Channel) : c.setFhpIfNeeded.ocfOff = c.ocfOff := by
  unfold Channel.setFhpIfNeeded; split <;> rfl
@[simp] theorem Channel.setFhpIfNeeded_fecfOff (c : Channel) : c.setFhpIfNeeded.fecfOff = c.fecfOff := by
  unfold Channel.setFhpIfNeeded; split <;> rfl
@[simp] theorem Channel.setFhpIfNeeded_isInit (c : Channel) : c.setFhpIfNeeded.isInit = c.isInit := by
  unfold Channel.setFhpIfNeeded; split <;> rfl
@[simp] theorem Channel.setFhpIfNeeded_isReady (c : Channel) : c.setFhpIfNeeded.isReady = c.isReady := by
  unfold Channel.setFhpIfNeeded; split <;> rfl
@[simp] theorem Channel.setFhpIfNeeded_free (c : Channel) : c.setFhpIfNeeded.free = c.free := by
  unfold Channel.setFhpIfNeeded; split <;> rfl
@[simp] theorem Channel.setFhpIfNeeded_cur (c : Channel) : c.setFhpIfNeeded.cur = c.cur := by
  unfold Channel.setFhpIfNeeded; split <;> rfl
@[simp] theorem Channel.setFhpIfNeeded_vcfc (c : Channel) : c.setFhpIfNeeded.vcfc = c.vcfc := by
  unfold Channel.setFhpIfNeeded; split <;> rfl
@[simp] theorem Channel.setFhpIfNeeded_ovf (c : Channel) : c.setFhpIfNeeded.ovf = c.ovf := by
  unfold Channel.setFhpIfNeeded; split <;> rfl
@[simp] theorem Channel.setFhpIfNeeded_ovfHead (c : Channel) : c.setFhpIfNeeded.ovfHead = c.ovfHead := by
  unfold Channel.setFhpIfNeeded; split <;> rfl
@[simp] theorem Channel.setFhpIfNeeded_ovfFree (c : Channel) : c.setFhpIfNeeded.ovfFree = c.ovfFree := by
  unfold Channel.setFhpIfNeeded; split <;> rfl
@[simp] theorem Channel.setFhpIfNeeded_seg (c : Channel) : c.setFhpIfNeeded.seg = c.seg := by
  unfold Channel.setFhpIfNeeded; split <;> rfl
@[simp] theorem Channel.setFhpIfNeeded_fhpSet (c : Channel) : c.setFhpIfNeeded.fhpSet = true := by
  unfold Channel.setFhpIfNeeded; split
  · assumption
  · rfl
@[simp] theorem Channel.setFhpIfNeeded_frm (c : Channel) : c.setFhpIfNeeded.frm =
    if c.fhpSet then c.frm else tmSetFhp c.frm (BitVec.ofNat 11 (c.cur.toNat - c.dataOff.toNat)) := by
  unfold Channel.setFhpIfNeeded; split <;> rfl

/-! ### `Channel.spill` -/

@[simp] theorem Channel.spill_frameLen (p : Params) (c : Channel) (bs : List Octet) (k cont : Bool) :
    (c.spill p bs k cont).frameLen = c.frameLen := by
  unfold Channel.spill; split <;> rfl
@[simp] theorem Channel.spill_scid (p : Params) (c : Channel) (bs : List Octet) (k cont : Bool) :
    (c.spill p bs k cont).scid = c.scid := by
  unfold Channel.spill; split <;> rfl
@[simp] theorem Channel.spill_fecfFlag (p : Params) (c : Channel) (bs : List Octet) (k cont : Bool) :
    (c.spill p bs k cont).fecfFlag = c.fecfFlag := by
  unfold Channel.spill; split <;> rfl
@[simp] theorem Channel.spill_vcid (p : Params) (c : Channel) (bs : List Octet) (k cont : Bool) :
    (c.spill p bs k cont).vcid = c.vcid := by
  unfold Channel.spill; split <;> rfl
@[simp] theorem Channel.spill_ocfFlag (p : Params) (c : Channel) (bs : List Octet) (k cont : Bool) :
    (c.spill p bs k cont).ocfFlag = c.ocfFlag := by
  unfold Channel.spill; split <;> rfl
@[simp] theorem Channel.spill_sechdrFlag (p : Params) (c : Channel) (bs : List Octet) (k cont : Bool) :
    (c.spill p bs k cont).sechdrFlag = c.sechdrFlag := by
  unfold Channel.spill; split <;> rfl
@[simp] theorem Channel.spill_sechdrLen (p : Params) (c : Channel) (bs : List Octet) (k cont : Bool) :
    (c.spill p bs k cont).sechdrLen = c.sechdrLen := by
  unfold Channel.spill; split <;> rfl
@[simp] theorem Channel.spill_vca (p : Params) (c : Channel) (bs : List Octet) (k cont : Bool) :
    (c.spill p bs k cont).vca = c.vca := by
  unfold Channel.spill; split <;> rfl
@[simp] theorem Channel.spill_isVc (p : Params) (c : Channel) (bs : List Octet) (k cont : Bool) :
    (c.spill p bs k cont).isVc = c.isVc := by
  unfold Channel.spill; split <;> rfl
@[simp] theorem Channel.spill_dataOff (p : Params) (c : Channel) (bs : List Octet) (k cont : Bool) :
    (c.spill p bs k cont).dataOff = c.dataOff := by
  unfold Channel.spill; split <;> rfl
@[simp] theorem Channel.spill_dataLen (p : Params) (c : Channel) (bs : List Octet) (k cont : Bool) :
    (c.spill p bs k cont).dataLen = c.dataLen := by
  unfold Channel.spill; split <;> rfl
@[simp] theorem Channel.spill_ocfOff (p : Params) (c : Channel) (bs : List Octet) (k cont : Bool) :
    (c.spill p bs k cont).ocfOff = c.ocfOff := by
  unfold Channel.spill; split <;> rfl
@[simp] theorem Channel.spill_fecfOff (p : Params) (c : Channel) (bs : List Octet) (k cont : Bool) :
    (c.spill p bs k cont).fecfOff = c.fecfOff := by
  unfold Channel.spill; split <;> rfl
@[simp] theorem Channel.spill_isInit (p : Params) (c : Channel) (bs : List Octet) (k cont : Bool) :
    (c.spill p bs k cont).isInit = c.isInit := by
  unfold Channel.spill; split <;> rfl
@[simp] theorem Channel.spill_isReady (p : Params) (c : Channel) (bs : List Octet) (k cont : Bool) :
    (c.spill p bs k cont).isReady = c.isReady := by
  unfold Channel.spill; split <;> rfl
@[simp] theorem Channel.spill_fhpSet (p : Params) (c : Channel) (bs : List Octet) (k cont : Bool) :
    (c.spill p bs k cont).fhpSet = c.fhpSet := by
  unfold Channel.spill; split <;> rfl
@[simp] theorem Channel.spill_free (p : Params) (c : Channel) (bs : List Octet) (k cont : Bool) :
    (c.spill p bs k cont).free = c.free := by
  unfold Channel.spill; split <;> rfl
@[simp] theorem Channel.spill_cur (p : Params) (c : Channel) (bs : List Octet) (k cont : Bool) :
    (c.spill p bs k cont).cur = c.cur := by
  unfold Channel.spill; split <;> rfl
@[simp] theorem Channel.spill_vcfc (p : Params) (c : Channel) (bs : List Octet) (k cont : Bool) :
    (c.spill p bs k cont).vcfc = c.vcfc := by
  unfold Channel.spill; split <;> rfl
@[simp] theorem Channel.spill_frm (p : Params) (c : Channel) (bs : List Octet) (k cont : Bool) :
    (c.spill p bs k cont).frm = c.frm := by
  unfold Channel.spill; split <;> rfl
@[simp] theorem Channel.spill_ovfHead (p : Params) (c : Channel) (bs : List Octet) (k cont : Bool) :
    (c.spill p bs k cont).ovfHead = c.ovfHead := by
  unfold Channel.spill; split <;> rfl

/-! ### `Channel.copyFromOverflow` and `Channel.addUnit`: what they do not write -/

@[simp] theorem Channel.copyFromOverflow_frameLen (p : Params) (c : Channel) (g : Segment) :
    (c.copyFromOverflow p g).frameLen = c.frameLen := by
  unfold Channel.copyFromOverflow; dsimp only; split <;> simp
@[simp] theorem Channel.copyFromOverflow_scid (p : Params) (c : Channel) (g : Segment) :
    (c.copyFromOverflow p g).scid = c.scid := by
  unfold Channel.copyFromOverflow; dsimp only; split <;> simp
@[simp] theorem Channel.copyFromOverflow_fecfFlag (p : Params) (c : Channel) (g : Segment) :
    (c.copyFromOverflow p g).fecfFlag = c.fecfFlag := by
  unfold Channel.copyFromOverflow; dsimp only; split <;> simp
@[simp] theorem Channel.copyFromOverflow_vcid (p : Params) (c : Channel) (g : Segment) :
    (c.copyFromOverflow p g).vcid = c.vcid := by
  unfold Channel.copyFromOverflow; dsimp only; split <;> simp
@[simp] theorem Channel.copyFromOverflow_ocfFlag (p : Params) (c : Channel) (g : Segment) :
    (c.copyFromOverflow p g).ocfFlag = c.ocfFlag := by
  unfold Channel.copyFromOverflow; dsimp only; split <;> simp
@[simp] theorem Channel.copyFromOverflow_sechdrFlag (p : Params) (c : Channel) (g : Segment) :
    (c.copyFromOverflow p g).sechdrFlag = c.sechdrFlag := by
  unfold Channel.copyFromOverflow; dsimp only; split <;> simp
@[simp] theorem Channel.copyFromOverflow_sechdrLen (p : Params) (c : Channel) (g : Segment) :
    (c.copyFromOverflow p g).sechdrLen = c.sechdrLen := by
  unfold Channel.copyFromOverflow; dsimp only; split <;> simp
@[simp] theorem Channel.copyFromOverflow_vca (p : Params) (c : Channel) (g : Segment) :
    (c.copyFromOverflow p g).vca = c.vca := by
  unfold Channel.copyFromOverflow; dsimp only; split <;> simp
@[simp] theorem Channel.copyFromOverflow_isVc (p : Params) (c : Channel) (g : Segment) :
    (c.copyFromOverflow p g).isVc = c.isVc := by
  unfold Channel.copyFromOverflow; dsimp only; split <;> simp
@[simp] theorem Channel.copyFromOverflow_dataOff (p : Params) (c : Channel) (g : Segment) :
    (c.copyFromOverflow p g).dataOff = c.dataOff := by
  unfold Channel.copyFromOverflow; dsimp only; split <;> simp
@[simp] theorem Channel.copyFromOverflow_dataLen (p : Params) (c : Channel) (g : Segment) :
    (c.copyFromOverflow p g).dataLen = c.dataLen := by
  unfold Channel.copyFromOverflow; dsimp only; split <;> simp
@[simp] theorem Channel.copyFromOverflow_ocfOff (p : Params) (c : Channel) (g : Segment) :
    (c.copyFromOverflow p g).ocfOff = c.ocfOff := by
  unfold Channel.copyFromOverflow; dsimp only; split <;> simp
@[simp] theorem Channel.copyFromOverflow_fecfOff (p : Params) (c : Channel) (g : Segment) :
    (c.copyFromOverflow p g).fecfOff = c.fecfOff := by
  unfold Channel.copyFromOverflow; dsimp only; split <;> simp
@[simp] theorem Channel.copyFromOverflow_isInit (p : Params) (c : Channel) (g : Segment) :
    (c.copyFromOverflow p g).isInit = c.isInit := by
  unfold Channel.copyFromOverflow; dsimp only; split <;> simp
@[simp] theorem Channel.copyFromOverflow_isReady (p : Params) (c : Channel) (g : Segment) :
    (c.copyFromOverflow p g).isReady = c.isReady := by
  unfold Channel.copyFromOverflow; dsimp only; split <;> simp
@[simp] theorem Channel.copyFromOverflow_vcfc (p : Params) (c : Channel) (g : Segment) :
    (c.copyFromOverflow p g).vcfc = c.vcfc := by
  unfold Channel.copyFromOverflow; dsimp only; split <;> simp
@[simp] theorem Channel.copyFromOverflow_ovf (p : Params) (c : Channel) (g : Segment) :
    (c.copyFromOverflow p g).ovf = c.ovf := by
  unfold Channel.copyFromOverflow; dsimp only; split <;> simp
@[simp] theorem Channel.copyFromOverflow_seg (p : Params) (c : Channel) (g : Segment) :
    (c.copyFromOverflow p g).seg = c.seg := by
  unfold Channel.copyFromOverflow; dsimp only; split <;> simp
@[simp] theorem Channel.addUnit_frameLen (p : Params) (c : Channel) (m : Memory) (len : Nat) (k : Bool) :
    (c.addUnit p m len k).frameLen = c.frameLen := by
  unfold Channel.addUnit; dsimp only; split <;> simp
@[simp] theorem Channel.addUnit_scid (p : Params) (c : Channel) (m : Memory) (len : Nat) (k : Bool) :
    (c.addUnit p m len k).scid = c.scid := by
  unfold Channel.addUnit; dsimp only; split <;> simp
@[simp] theorem Channel.addUnit_fecfFlag (p : Params) (c : Channel) (m : Memory) (len : Nat) (k : Bool) :
    (c.addUnit p m len k).fecfFlag = c.fecfFlag := by
  unfold Channel.addUnit; dsimp only; split <;> simp
@[simp] theorem Channel.addUnit_vcid (p : Params) (c : Channel) (m : Memory) (len : Nat) (k : Bool) :
    (c.addUnit p m len k).vcid = c.vcid := by
  unfold Channel.addUnit; dsimp only; split <;> simp
@[simp] theorem Channel.addUnit_ocfFlag (p : Params) (c : Channel) (m : Memory) (len : Nat) (k : Bool) :
    (c.addUnit p m len k).ocfFlag = c.ocfFlag := by
  unfold Channel.addUnit; dsimp only; split <;> simp
@[simp] theorem Channel.addUnit_sechdrFlag (p : Params) (c : Channel) (m : Memory) (len : Nat) (k : Bool) :
    (c.addUnit p m len k).sechdrFlag = c.sechdrFlag := by
  unfold Channel.addUnit; dsimp only; split <;> simp
@[simp] theorem Channel.addUnit_sechdrLen (p : Params) (c : Channel) (m : Memory) (len : Nat) (k : Bool) :
    (c.addUnit p m len k).sechdrLen = c.sechdrLen := by
  unfold Channel.addUnit; dsimp only; split <;> simp
@[simp] theorem Channel.addUnit_vca (p : Params) (c : Channel) (m : Memory) (len : Nat) (k : Bool) :
    (c.addUnit p m len k).vca = c.vca := by
  unfold Channel.addUnit; dsimp only; split <;> simp
@[simp] theorem Channel.addUnit_isVc (p : Params) (c : Channel) (m : Memory) (len : Nat) (k : Bool) :
    (c.addUnit p m len k).isVc = c.isVc := by
  unfold Channel.addUnit; dsimp only; split <;> simp
@[simp] theorem Channel.addUnit_dataOff (p : Params) (c : Channel) (m : Memory) (len : Nat) (k : Bool) :
    (c.addUnit p m len k).dataOff = c.dataOff := by
  unfold Channel.addUnit; dsimp only; split <;> simp
@[simp] theorem Channel.addUnit_dataLen (p : Params) (c : Channel) (m : Memory) (len : Nat) (k : Bool) :
    (c.addUnit p m len k).dataLen = c.dataLen := by
  unfold Channel.addUnit; dsimp only; split <;> simp
@[simp] theorem Channel.addUnit_ocfOff (p : Params) (c : Channel) (m : Memory) (len : Nat) (k : Bool) :
    (c.addUnit p m len k).ocfOff = c.ocfOff := by
  unfold Channel.addUnit; dsimp only; split <;> simp
@[simp] theorem Channel.addUnit_fecfOff (p : Params) (c : Channel) (m : Memory) (len : Nat) (k : Bool) :
    (c.addUnit p m len k).fecfOff = c.fecfOff := by
  unfold Channel.addUnit; dsimp only; split <;> simp
@[simp] theorem Channel.addUnit_isInit (p : Params) (c : Channel) (m : Memory) (len : Nat) (k : Bool) :
    (c.addUnit p m len k).isInit = c.isInit := by
  unfold Channel.addUnit; dsimp only; split <;> simp
@[simp] theorem Channel.addUnit_isReady (p : Params) (c : Channel) (m : Memory) (len : Nat) (k : Bool) :
    (c.addUnit p m len k).isReady = c.isReady := by
  unfold Channel.addUnit; dsimp only; split <;> simp
@[simp] theorem Channel.addUnit_vcfc (p : Params) (c : Channel) (m : Memory) (len : Nat) (k : Bool) :
    (c.addUnit p m len k).vcfc = c.vcfc := by
  unfold Channel.addUnit; dsimp only; split <;> simp
@[simp] theorem Channel.addUnit_ovfHead (p : Params) (c : Channel) (m : Memory) (len : Nat) (k : Bool) :
    (c.addUnit p m len k).ovfHead = c.ovfHead := by
  unfold Channel.addUnit; dsimp only; split <;> simp

end Sys2Proof.Machine
end

