-- ==== Sys2Proof/Laws/Ops.lean ====
section
/-! SUPPORT. What each shared operation can do: for every operation that commands are made of, one lemma that says all the
answers it can give; and the octets its memory updates leave. -/

namespace Sys2Proof.Machine

/-! ### Responses and the channel check -/

@[simp] theorem done_next (s t : State) (v : Word) : done s v = .next t ↔ t = s.respond .ok v := by
  simp only [done, Host.Outcome.next.injEq]; exact eq_comm

@[simp] theorem raise_next (s t : State) (st : Status) : raise s st = .next t ↔ t = s.respond st 0 := by
  simp only [raise, Host.Outcome.next.injEq]; exact eq_comm

theorem withChannel_of_some {s : State} {ch : BitVec 8} {c : Channel} (h : s.chans[ch.toNat]? = some c)
    (k : Channel → Result) : withChannel s ch k = k c := by simp only [withChannel, h]

theorem withChannel_of_none {s : State} {ch : BitVec 8} (h : s.chans[ch.toNat]? = none) (k : Channel → Result) :
    withChannel s ch k = raise s .invalidArgument := by simp only [withChannel, h]

/-- A command that uses `ch` answers `InvalidArgument`, or goes on with the context of the channel (R51). -/
theorem withChannel_next {s t : State} {ch : BitVec 8} {k : Channel → Result} (h : withChannel s ch k = .next t) :
    t = s.respond .invalidArgument 0 ∨ ∃ c, s.chans[ch.toNat]? = some c ∧ k c = .next t := by
  cases hc : s.chans[ch.toNat]? with
  | none => rw [withChannel_of_none hc] at h; exact .inl ((raise_next _ _ _).1 h)
  | some c => rw [withChannel_of_some hc] at h; exact .inr ⟨c, rfl, h⟩

/-! ### TM getters and setters -/

/-- A getter changes nothing but the response registers (R115). -/
theorem tmGet_next {s t : State} {ch : BitVec 8} {value : Memory → Word} (h : tmGet ch value s = .next t) :
    t = s.respond .invalidArgument 0 ∨ ∃ c, s.chans[ch.toNat]? = some c ∧ t = s.respond .ok (value c.frm) := by
  rcases withChannel_next h with h | ⟨c, hc, h⟩
  · exact .inl h
  · exact .inr ⟨c, hc, (done_next _ _ _).1 h⟩

/-- A field setter writes the frame buffer of its channel and nothing else (R115). -/
theorem tmSet_next {s t : State} {ch : BitVec 8} {put : Memory → Memory} (h : tmSet ch put s = .next t) :
    t = s.respond .invalidArgument 0 ∨
      ∃ c, s.chans[ch.toNat]? = some c ∧ t = (s.setFrame ch c (put c.frm)).respond .ok 0 := by
  rcases withChannel_next h with h | ⟨c, hc, h⟩
  · exact .inl h
  · exact .inr ⟨c, hc, (done_next _ _ _).1 h⟩

/-! ### Host access -/

theorem execBufRd_next {s t : State} {ch : BitVec 8} {space addr : Half} (h : execBufRd ch space addr s = .next t) :
    t = s.respond .invalidArgument 0 ∨ ∃ sp m, spaceOfId space = some sp ∧ s.spaceBuffer ch sp = some m ∧
      addr.toNat < spaceSize s.params sp ∧ t = s.respond .ok ((m.read addr.toNat).setWidth 32) := by
  unfold execBufRd at h
  split at h
  · exact .inl ((raise_next _ _ _).1 h)
  · split at h
    · exact .inl ((raise_next _ _ _).1 h)
    · split at h
      · exact .inl ((raise_next _ _ _).1 h)
      · exact .inr ⟨_, _, ‹_›, ‹_›, by omega, (done_next _ _ _).1 h⟩

theorem execBufWr_next {s t : State} {ch : BitVec 8} {space addr : Half} {v : Octet}
    (h : execBufWr ch space addr v s = .next t) :
    t = s.respond .invalidArgument 0 ∨ ∃ sp m, spaceOfId space = some sp ∧ spaceHostWritable sp = true ∧
      s.spaceBuffer ch sp = some m ∧ addr.toNat < spaceSize s.params sp ∧
      t = (s.setSpaceBuffer ch (m.write addr.toNat v) sp).respond .ok 0 := by
  unfold execBufWr at h
  split at h
  · exact .inl ((raise_next _ _ _).1 h)
  · split at h
    · exact .inl ((raise_next _ _ _).1 h)
    · split at h
      · exact .inl ((raise_next _ _ _).1 h)
      · split at h
        · exact .inl ((raise_next _ _ _).1 h)
        · exact .inr ⟨_, _, ‹_›, by simp_all, ‹_›, by omega, (done_next _ _ _).1 h⟩

/-! ### The helpers of the TM codec -/

theorem execTmSetSechdrLen_next {s t : State} {ch : BitVec 8} {len : Half}
    (h : execTmSetSechdrLen ch len s = .next t) :
    (∃ st, st ≠ .ok ∧ t = s.respond st 0) ∨ ∃ c, s.chans[ch.toNat]? = some c ∧ tmSechdrFlag c.frm = true ∧
      1 ≤ len.toNat ∧ len.toNat ≤ 63 ∧ t = (s.setFrame ch c (tmSetSechdrLen c.frm (len.setWidth 6))).respond .ok 0 := by
  rcases withChannel_next h with h | ⟨c, hc, h⟩
  · exact .inl ⟨_, by decide, h⟩
  · split at h
    · exact .inl ⟨_, by decide, (raise_next _ _ _).1 h⟩
    · split at h
      · exact .inl ⟨_, by decide, (raise_next _ _ _).1 h⟩
      · exact .inr ⟨c, hc, by simp_all, by omega, by omega, (done_next _ _ _).1 h⟩

theorem execTmSetSechdrData_next {s t : State} {ch : BitVec 8} {len : Half}
    (h : execTmSetSechdrData ch len s = .next t) :
    (∃ st, st ≠ .ok ∧ t = s.respond st 0) ∨ ∃ c, s.chans[ch.toNat]? = some c ∧ tmSechdrFlag c.frm = true ∧
      1 ≤ len.toNat ∧ len.toNat ≤ (tmSechdrLen c.frm).toNat ∧
      t = (s.setFrame ch c (tmSetSechdrData c.frm (s.inbuf.readBytes 0 len.toNat))).respond .ok 0 := by
  rcases withChannel_next h with h | ⟨c, hc, h⟩
  · exact .inl ⟨_, by decide, h⟩
  · split at h
    · exact .inl ⟨_, by decide, (raise_next _ _ _).1 h⟩
    · split at h
      · exact .inl ⟨_, by decide, (raise_next _ _ _).1 h⟩
      · exact .inr ⟨c, hc, by simp_all, by omega, by omega, (done_next _ _ _).1 h⟩

theorem execTmSetOcf_next {s t : State} {ch : BitVec 8} {off : Half} {d : Word}
    (h : execTmSetOcf ch off d s = .next t) :
    (∃ st, st ≠ .ok ∧ t = s.respond st 0) ∨ ∃ c, s.chans[ch.toNat]? = some c ∧ tmOcfFlag c.frm = true ∧
      off.toNat + 4 ≤ s.params.frameCap ∧ t = (s.setFrame ch c (tmSetOcf c.frm off.toNat d)).respond .ok 0 := by
  rcases withChannel_next h with h | ⟨c, hc, h⟩
  · exact .inl ⟨_, by decide, h⟩
  · split at h
    · exact .inl ⟨_, by decide, (raise_next _ _ _).1 h⟩
    · split at h
      · exact .inl ⟨_, by decide, (raise_next _ _ _).1 h⟩
      · exact .inr ⟨c, hc, by simp_all, by omega, (done_next _ _ _).1 h⟩

theorem execTmUpdateFecf_next {s t : State} {ch : BitVec 8} {off : Half} (h : execTmUpdateFecf ch off s = .next t) :
    (∃ st, st ≠ .ok ∧ t = s.respond st 0) ∨ ∃ c, s.chans[ch.toNat]? = some c ∧ 6 ≤ off.toNat ∧
      off.toNat + 2 ≤ s.params.frameCap ∧ t = (s.setFrame ch c (updateCrc c.frm off.toNat)).respond .ok 0 := by
  rcases withChannel_next h with h | ⟨c, hc, h⟩
  · exact .inl ⟨_, by decide, h⟩
  · split at h
    · exact .inl ⟨_, by decide, (raise_next _ _ _).1 h⟩
    · rename_i hb
      have hb : 6 ≤ off.toNat ∧ off.toNat + 2 ≤ s.params.frameCap := by simpa [crcBoundsOk] using hb
      exact .inr ⟨c, hc, hb.1, hb.2, (done_next _ _ _).1 h⟩

/-! ### COP-1 -/

/-- The control command path, whole (R160, R162, R164). -/
theorem processControl_next {s t : State} (h : processControl s = .next t) :
    (s.tcbuf.read 5 = 0 ∧ t = (s.setClcw s.clcw.unlock).respond .ok 0) ∨
    (s.tcbuf.read 5 = 0x82 ∧ s.tcbuf.read 6 = 0 ∧ s.clcw.lockout = true ∧
      t = (s.setClcw s.clcw.countFarmB).respond .farm1Violation 0) ∨
    (s.tcbuf.read 5 = 0x82 ∧ s.tcbuf.read 6 = 0 ∧ s.clcw.lockout = false ∧
      t = (s.setClcw (s.clcw.setVr (s.tcbuf.read 7))).respond .ok 0) ∨
    t = s.respond .farm1Violation 0 := by
  unfold processControl controlCommand at h
  by_cases h1 : s.tcbuf.read 5 = 0x00
  · rw [if_pos h1] at h; exact .inl ⟨h1, (done_next _ _ _).1 h⟩
  · rw [if_neg h1] at h
    by_cases h2 : s.tcbuf.read 5 = 0x82 ∧ s.tcbuf.read 6 = 0x00
    · rw [if_pos h2] at h
      cases hl : s.clcw.lockout
      · simp only [hl, Bool.false_eq_true, if_false, done_next] at h
        exact .inr (.inr (.inl ⟨h2.1, h2.2, rfl, h⟩))
      · simp only [hl, if_true, raise_next] at h
        exact .inr (.inl ⟨h2.1, h2.2, rfl, h⟩)
    · rw [if_neg h2] at h
      exact .inr (.inr (.inr ((raise_next _ _ _).1 h)))

/-- The sequence-controlled path, whole (R167 to R169). -/
theorem processSequenced_next {s t : State} {a : Bool} {d : ServiceDescriptor}
    (h : processSequenced a d s = .next t) :
    (s.clcw.lockout = true ∧ t = s.respond .farm1Violation 0) ∨
    (s.clcw.lockout = false ∧
      ((classify (tcSeq s.tcbuf) s.clcw.report = .pass ∧ a = true ∧
          t = ((s.setClcw s.clcw.accept).copyPayload d).respond .ok (BitVec.ofNat 32 (tcPayloadLen s.tcbuf d))) ∨
        (classify (tcSeq s.tcbuf) s.clcw.report = .pass ∧ a = false ∧
          t = (s.setClcw s.clcw.backpressure).respond .invalidArgument 0) ∨
        (classify (tcSeq s.tcbuf) s.clcw.report = .positive ∧
          t = (s.setClcw s.clcw.requestRetransmit).respond .farm1Violation 0) ∨
        (classify (tcSeq s.tcbuf) s.clcw.report = .negative ∧ t = s.respond .farm1Violation 0) ∨
        (classify (tcSeq s.tcbuf) s.clcw.report = .lockout ∧
          t = (s.setClcw s.clcw.lockOut).respond .farm1Violation 0))) := by
  unfold processSequenced at h
  cases hl : s.clcw.lockout
  · refine .inr ⟨rfl, ?_⟩
    simp only [hl, Bool.false_eq_true, if_false] at h
    split at h <;> rename_i hk
    · cases a
      · exact .inr (.inl ⟨hk, rfl, (raise_next _ _ _).1 h⟩)
      · exact .inl ⟨hk, rfl, (done_next _ _ _).1 h⟩
    · exact .inr (.inr (.inl ⟨hk, (raise_next _ _ _).1 h⟩))
    · exact .inr (.inr (.inr (.inl ⟨hk, (raise_next _ _ _).1 h⟩)))
    · exact .inr (.inr (.inr (.inr ⟨hk, (raise_next _ _ _).1 h⟩)))
  · simp only [hl, if_true, raise_next] at h
    exact .inl ⟨rfl, h⟩

/-- The bypass data path, whole (R165). -/
theorem processBypassData_next {s t : State} {a : Bool} {d : ServiceDescriptor}
    (h : processBypassData a d s = .next t) :
    (a = true ∧ t = ((s.setClcw s.clcw.countFarmB).copyPayload d).respond .ok
      (BitVec.ofNat 32 (tcPayloadLen s.tcbuf d))) ∨
    (a = false ∧ t = (s.setClcw s.clcw.countFarmB).respond .ok 0) := by
  cases a
  · exact .inr ⟨rfl, (done_next _ _ _).1 h⟩
  · exact .inl ⟨rfl, (done_next _ _ _).1 h⟩

/-- COP1_PROCESS_FRAME: an invalid frame, or one of the three paths (R158). -/
theorem execCop1ProcessFrame_next {s t : State} {a : Bool} {d : ServiceDescriptor}
    (h : execCop1ProcessFrame a d s = .next t) :
    (tcValid s.tcbuf d = false ∧ t = s.respond .invalidFrame 0) ∨
    (tcValid s.tcbuf d = true ∧
      ((tcBypass s.tcbuf = true ∧ tcCtlCmd s.tcbuf = true ∧ processControl s = .next t) ∨
        (tcBypass s.tcbuf = true ∧ tcCtlCmd s.tcbuf = false ∧ processBypassData a d s = .next t) ∨
        (tcBypass s.tcbuf = false ∧ processSequenced a d s = .next t))) := by
  unfold execCop1ProcessFrame at h
  cases hv : tcValid s.tcbuf d <;> cases hb : tcBypass s.tcbuf <;> cases hk : tcCtlCmd s.tcbuf <;> simp_all

/-! ### TC_SYNC and TM_SYNC -/

/-- The frame that `extractFrame` gives fits the buffer. -/
theorem extractFrame_length {cap : Nat} {bs : List (List Octet)} {out t : List Octet}
    (h : extractFrame cap bs out = .ok t) (ho : out.length ≤ cap) : t.length ≤ cap := by
  induction bs generalizing out with
  | nil => simp [extractFrame] at h
  | cons b bs ih =>
    unfold extractFrame at h
    split at h
    · cases h; exact ho
    · split at h
      · cases h
      · refine ih h ?_
        simp only [List.length_append, List.length_take]; omega

@[simp] theorem length_xorPrbsFrom (seq : List Octet) (i : Nat) (bs : List Octet) :
    (xorPrbsFrom seq i bs).length = bs.length := by
  induction bs generalizing i with
  | nil => rfl
  | cons b bs ih => simp [xorPrbsFrom, ih]

@[simp] theorem length_xorWithPrbs (bs seq : List Octet) : (xorWithPrbs bs seq).length = bs.length :=
  length_xorPrbsFrom seq 0 bs

/-- Octet `k` of the (de)whitened octets (R85). -/
theorem getElem?_xorPrbsFrom (seq : List Octet) (i : Nat) (bs : List Octet) (k : Nat) :
    (xorPrbsFrom seq i bs)[k]? = (bs[k]?).map (fun b => b ^^^ prbsWindow seq (i + k)) := by
  induction bs generalizing i k with
  | nil => rfl
  | cons b bs ih =>
    cases k with
    | zero => rfl
    | succ k => simp only [xorPrbsFrom, List.getElem?_cons_succ, ih, show i + 1 + k = i + (k + 1) by omega]

@[simp] theorem length_tcFrameOctets (r : Bool) (t : List Octet) : (tcFrameOctets r t).length = t.length := by
  cases r <;> simp [tcFrameOctets]

/-- TC_SYNC_GET_FRAME, whole (R187). -/
theorem execTcSyncGetFrame_next {s t : State} {n : Half} {r : Bool} (h : execTcSyncGetFrame n r s = .next t) :
    (∃ st, st ≠ .ok ∧ t = s.respond st 0) ∨ ∃ f, n.toNat ≤ s.params.cltuCap ∧
      extractFrame s.params.tcbufCap (codeBlocks s.cltu n.toNat) [] = .ok f ∧
      t = (s.commitTcFrame (tcFrameOctets r f)).respond .ok (BitVec.ofNat 32 f.length) := by
  unfold execTcSyncGetFrame at h
  split at h
  · exact .inl ⟨_, by decide, (raise_next _ _ _).1 h⟩
  · split at h
    · exact .inl ⟨_, by decide, (raise_next _ _ _).1 h⟩
    · split at h
      · rename_i st he
        refine .inl ⟨st, ?_, (raise_next _ _ _).1 h⟩
        rintro rfl
        revert he
        generalize (codeBlocks s.cltu n.toNat) = bs
        generalize ([] : List Octet) = out
        induction bs generalizing out with
        | nil => simp [extractFrame]
        | cons b bs ih =>
          unfold extractFrame
          split
          · simp
          · split
            · simp
            · exact ih _
      · exact .inr ⟨_, by omega, ‹_›, (done_next _ _ _).1 h⟩

@[simp] theorem length_caduOctets (asm frame : Memory) (al fl : Nat) (r : Bool) :
    (caduOctets asm frame al fl r).length = al + fl := by
  cases r <;> simp [caduOctets]

/-- TM_SYNC_SYNCHRONIZE, whole (R196). -/
theorem execTmSyncSynchronize_next {s t : State} {ch : BitVec 8} {al fl : Half} {r : Bool}
    (h : execTmSyncSynchronize ch al fl r s = .next t) :
    (∃ st, st ≠ .ok ∧ t = s.respond st 0) ∨ ∃ c, s.chans[ch.toNat]? = some c ∧ al.toNat ≤ s.params.asmCap ∧
      fl.toNat ≤ s.params.frameCap ∧
      t = (s.setCadu (caduOctets s.asmbuf c.frm al.toNat fl.toNat r)).respond .ok
        (BitVec.ofNat 32 (al.toNat + fl.toNat)) := by
  rcases withChannel_next h with h | ⟨c, hc, h⟩
  · exact .inl ⟨_, by decide, h⟩
  · split at h
    · exact .inl ⟨_, by decide, (raise_next _ _ _).1 h⟩
    · rename_i ha
      split at h
      · exact .inl ⟨_, by decide, (raise_next _ _ _).1 h⟩
      · refine .inr ⟨c, hc, ?_, by omega, (done_next _ _ _).1 h⟩
        simp only [asmLenOk, Bool.not_eq_true, Bool.not_eq_false', Bool.and_eq_true, decide_eq_true_eq] at ha
        exact ha.2

/-! ### TM_SDLP -/

/-- SDLP_INIT_CHANNEL, whole (R207). -/
theorem execSdlpInitChannel_next {s t : State} {ch : BitVec 8} {g : ChannelConfig}
    (h : execSdlpInitChannel ch g s = .next t) :
    t = s.respond .invalidArgument 0 ∨ (∃ st, initCheck s.params g = some st ∧ t = s.respond st 0) ∨
      (initCheck s.params g = none ∧ t = (s.setChannel ch (initialisedChannel s.params g)).respond .ok 0) := by
  rcases withChannel_next h with h | ⟨c, hc, h⟩
  · exact .inl h
  · split at h
    · exact .inr (.inl ⟨_, ‹_›, (raise_next _ _ _).1 h⟩)
    · exact .inr (.inr ⟨‹_›, (done_next _ _ _).1 h⟩)

/-- SDLP_START_FRAME, whole (R209). -/
theorem execSdlpStartFrame_next {s t : State} {ch : BitVec 8} (h : execSdlpStartFrame ch s = .next t) :
    (∃ st, st ≠ .ok ∧ t = s.respond st 0) ∨ ∃ c c', s.chans[ch.toNat]? = some c ∧ c.isInit = true ∧
      Channel.refill s.params c.seg { c with isReady := true } = .ok c' ∧
      t = (s.setChannel ch c').respond .ok 0 := by
  rcases withChannel_next h with h | ⟨c, hc, h⟩
  · exact .inl ⟨_, by decide, h⟩
  · split at h
    · exact .inl ⟨_, by decide, (raise_next _ _ _).1 h⟩
    · split at h
      · cases h
      · exact .inr ⟨c, _, hc, by simp_all, ‹_›, (done_next _ _ _).1 h⟩

/-- `add_data`, whole (R212). -/
theorem addData_next {s t : State} {ch : BitVec 8} {len : Half} {k : Bool} (h : addData ch len k s = .next t) :
    (∃ st, st ≠ .ok ∧ t = s.respond st 0) ∨ ∃ c, s.chans[ch.toNat]? = some c ∧ c.isInit = true ∧ c.isReady = true ∧
      1 ≤ len.toNat ∧ len.toNat ≤ s.params.inbufCap ∧ len.toNat - min len.toNat c.free.toNat ≤ c.ovfFree.toNat ∧
      c.cur.toNat + min len.toNat c.free.toNat ≤ s.params.frameCap ∧
      t = (s.setChannel ch (c.addUnit s.params s.inbuf len.toNat k)).respond .ok
        (BitVec.ofNat 32 (min len.toNat c.free.toNat)) := by
  rcases withChannel_next h with h | ⟨c, hc, h⟩
  · exact .inl ⟨_, by decide, h⟩
  · split at h
    · exact .inl ⟨_, by decide, (raise_next _ _ _).1 h⟩
    · split at h
      · exact .inl ⟨_, by decide, (raise_next _ _ _).1 h⟩
      · split at h
        · exact .inl ⟨_, by decide, (raise_next _ _ _).1 h⟩
        · split at h
          · exact .inl ⟨_, by decide, (raise_next _ _ _).1 h⟩
          · split at h
            · cases h
            · rename_i ho
              simp only [Channel.overruns, decide_eq_true_eq, not_lt] at ho
              exact .inr ⟨c, hc, by simp_all, by simp_all, by omega, by omega, by omega, ho, (done_next _ _ _).1 h⟩

/-- SDLP_COMPLETE_FRAME, whole (R222). -/
theorem execSdlpCompleteFrame_next {s t : State} {ch : BitVec 8} {p : Bool} {d : Word}
    (h : execSdlpCompleteFrame ch p d s = .next t) :
    (∃ st, st ≠ .ok ∧ t = s.respond st 0) ∨ ∃ c, s.chans[ch.toNat]? = some c ∧ c.isInit = true ∧
      (c.ocfFlag = true → p = true) ∧ c.trailersFit s.params = true ∧
      t = ((s.setMcfc (s.mcfc + 1)).setChannel ch (c.complete (s.mcfc + 1) d)).respond .ok
        (c.frameLen.setWidth 32) := by
  rcases withChannel_next h with h | ⟨c, hc, h⟩
  · exact .inl ⟨_, by decide, h⟩
  · split at h
    · exact .inl ⟨_, by decide, (raise_next _ _ _).1 h⟩
    · split at h
      · exact .inl ⟨_, by decide, (raise_next _ _ _).1 h⟩
      · split at h
        · cases h
        · exact .inr ⟨c, hc, by simp_all, by cases p <;> simp_all, by simp_all, (done_next _ _ _).1 h⟩

/-- SDLP_GET_STATUS, whole (R227). -/
theorem execSdlpGetStatus_next {s t : State} {ch : BitVec 8} {sel : Half}
    (h : execSdlpGetStatus ch sel s = .next t) :
    t = s.respond .invalidArgument 0 ∨ ∃ c v, s.chans[ch.toNat]? = some c ∧
      statusValue s.params s.mcfc c sel.toNat = some v ∧ t = s.respond .ok v := by
  rcases withChannel_next h with h | ⟨c, hc, h⟩
  · exact .inl h
  · split at h
    · exact .inl ((raise_next _ _ _).1 h)
    · exact .inr ⟨c, _, hc, ‹_›, (done_next _ _ _).1 h⟩

end Sys2Proof.Machine
end

