-- ==== Sys2Proof/Laws/PerInstr.lean ====
section
/-! SUPPORT. The family `OpcodeField`: the encoder puts a command's opcode (30_encoding.md R54) in `cmd[63:56]` (R50). -/

namespace Sys2Proof.Laws

/-- The opcode field of the encoded command is the command's opcode. -/
def OpcodeField.Statement (i : Instr) : Prop := (encode i).extractLsb' 56 8 = i.opcode

theorem OpcodeField.all (i : Instr) : OpcodeField.Statement i := congrArg CommandFields.op (Command.fields_encode i)

theorem OpcodeField.bufRd (ch : BitVec 8) (space : Half) (addr : Half) : OpcodeField.Statement (.bufRd ch space addr) :=
  OpcodeField.all _
theorem OpcodeField.bufWr (ch : BitVec 8) (space : Half) (addr : Half) (octet : Octet) : OpcodeField.Statement (.bufWr ch space addr octet) :=
  OpcodeField.all _
theorem OpcodeField.tcGetVersion : OpcodeField.Statement .tcGetVersion :=
  OpcodeField.all _
theorem OpcodeField.tcGetBypass : OpcodeField.Statement .tcGetBypass :=
  OpcodeField.all _
theorem OpcodeField.tcGetCtlcmd : OpcodeField.Statement .tcGetCtlcmd :=
  OpcodeField.all _
theorem OpcodeField.tcGetScid : OpcodeField.Statement .tcGetScid :=
  OpcodeField.all _
theorem OpcodeField.tcGetVcid : OpcodeField.Statement .tcGetVcid :=
  OpcodeField.all _
theorem OpcodeField.tcGetLength : OpcodeField.Statement .tcGetLength :=
  OpcodeField.all _
theorem OpcodeField.tcGetSeq : OpcodeField.Statement .tcGetSeq :=
  OpcodeField.all _
theorem OpcodeField.tcGetSegFlags : OpcodeField.Statement .tcGetSegFlags :=
  OpcodeField.all _
theorem OpcodeField.tcGetMapid : OpcodeField.Statement .tcGetMapid :=
  OpcodeField.all _
theorem OpcodeField.tcGetPayloadLen (d : ServiceDescriptor) : OpcodeField.Statement (.tcGetPayloadLen d) :=
  OpcodeField.all _
theorem OpcodeField.tcCopyPayload (d : ServiceDescriptor) : OpcodeField.Statement (.tcCopyPayload d) :=
  OpcodeField.all _
theorem OpcodeField.tcIsValid (d : ServiceDescriptor) : OpcodeField.Statement (.tcIsValid d) :=
  OpcodeField.all _
theorem OpcodeField.tmGetVersion (ch : BitVec 8) : OpcodeField.Statement (.tmGetVersion ch) :=
  OpcodeField.all _
theorem OpcodeField.tmGetScid (ch : BitVec 8) : OpcodeField.Statement (.tmGetScid ch) :=
  OpcodeField.all _
theorem OpcodeField.tmGetVcid (ch : BitVec 8) : OpcodeField.Statement (.tmGetVcid ch) :=
  OpcodeField.all _
theorem OpcodeField.tmGetOcfFlag (ch : BitVec 8) : OpcodeField.Statement (.tmGetOcfFlag ch) :=
  OpcodeField.all _
theorem OpcodeField.tmGetMcCount (ch : BitVec 8) : OpcodeField.Statement (.tmGetMcCount ch) :=
  OpcodeField.all _
theorem OpcodeField.tmGetVcCount (ch : BitVec 8) : OpcodeField.Statement (.tmGetVcCount ch) :=
  OpcodeField.all _
theorem OpcodeField.tmGetSechdrFlag (ch : BitVec 8) : OpcodeField.Statement (.tmGetSechdrFlag ch) :=
  OpcodeField.all _
theorem OpcodeField.tmGetSyncFlag (ch : BitVec 8) : OpcodeField.Statement (.tmGetSyncFlag ch) :=
  OpcodeField.all _
theorem OpcodeField.tmGetPktOrderFlag (ch : BitVec 8) : OpcodeField.Statement (.tmGetPktOrderFlag ch) :=
  OpcodeField.all _
theorem OpcodeField.tmGetSegLenId (ch : BitVec 8) : OpcodeField.Statement (.tmGetSegLenId ch) :=
  OpcodeField.all _
theorem OpcodeField.tmGetFhp (ch : BitVec 8) : OpcodeField.Statement (.tmGetFhp ch) :=
  OpcodeField.all _
theorem OpcodeField.tmGetSechdrLen (ch : BitVec 8) : OpcodeField.Statement (.tmGetSechdrLen ch) :=
  OpcodeField.all _
theorem OpcodeField.tmGetGvcid (ch : BitVec 8) : OpcodeField.Statement (.tmGetGvcid ch) :=
  OpcodeField.all _
theorem OpcodeField.tmGetMcid (ch : BitVec 8) : OpcodeField.Statement (.tmGetMcid ch) :=
  OpcodeField.all _
theorem OpcodeField.tmSetVersion (ch : BitVec 8) (v : BitVec 2) : OpcodeField.Statement (.tmSetVersion ch v) :=
  OpcodeField.all _
theorem OpcodeField.tmSetScid (ch : BitVec 8) (v : BitVec 10) : OpcodeField.Statement (.tmSetScid ch v) :=
  OpcodeField.all _
theorem OpcodeField.tmSetVcid (ch : BitVec 8) (v : BitVec 3) : OpcodeField.Statement (.tmSetVcid ch v) :=
  OpcodeField.all _
theorem OpcodeField.tmSetOcfFlag (ch : BitVec 8) (v : Bool) : OpcodeField.Statement (.tmSetOcfFlag ch v) :=
  OpcodeField.all _
theorem OpcodeField.tmSetMcCount (ch : BitVec 8) (v : Octet) : OpcodeField.Statement (.tmSetMcCount ch v) :=
  OpcodeField.all _
theorem OpcodeField.tmSetVcCount (ch : BitVec 8) (v : Octet) : OpcodeField.Statement (.tmSetVcCount ch v) :=
  OpcodeField.all _
theorem OpcodeField.tmSetSechdrFlag (ch : BitVec 8) (v : Bool) : OpcodeField.Statement (.tmSetSechdrFlag ch v) :=
  OpcodeField.all _
theorem OpcodeField.tmSetSyncFlag (ch : BitVec 8) (v : Bool) : OpcodeField.Statement (.tmSetSyncFlag ch v) :=
  OpcodeField.all _
theorem OpcodeField.tmSetPktOrderFlag (ch : BitVec 8) (v : Bool) : OpcodeField.Statement (.tmSetPktOrderFlag ch v) :=
  OpcodeField.all _
theorem OpcodeField.tmSetSegLenId (ch : BitVec 8) (v : BitVec 2) : OpcodeField.Statement (.tmSetSegLenId ch v) :=
  OpcodeField.all _
theorem OpcodeField.tmSetFhp (ch : BitVec 8) (v : BitVec 11) : OpcodeField.Statement (.tmSetFhp ch v) :=
  OpcodeField.all _
theorem OpcodeField.tmSetSechdrLen (ch : BitVec 8) (len : Half) : OpcodeField.Statement (.tmSetSechdrLen ch len) :=
  OpcodeField.all _
theorem OpcodeField.tmSetSechdrData (ch : BitVec 8) (len : Half) : OpcodeField.Statement (.tmSetSechdrData ch len) :=
  OpcodeField.all _
theorem OpcodeField.tmSetOcf (ch : BitVec 8) (off : Half) (ocf : Word) : OpcodeField.Statement (.tmSetOcf ch off ocf) :=
  OpcodeField.all _
theorem OpcodeField.tmUpdateFecf (ch : BitVec 8) (off : Half) : OpcodeField.Statement (.tmUpdateFecf ch off) :=
  OpcodeField.all _
theorem OpcodeField.cop1InitClcw (vcid : BitVec 6) : OpcodeField.Statement (.cop1InitClcw vcid) :=
  OpcodeField.all _
theorem OpcodeField.cop1ProcessFrame (destAvail : Bool) (d : ServiceDescriptor) : OpcodeField.Statement (.cop1ProcessFrame destAvail d) :=
  OpcodeField.all _
theorem OpcodeField.clcwGetCopEffect : OpcodeField.Statement .clcwGetCopEffect :=
  OpcodeField.all _
theorem OpcodeField.clcwGetVcid : OpcodeField.Statement .clcwGetVcid :=
  OpcodeField.all _
theorem OpcodeField.clcwRd : OpcodeField.Statement .clcwRd :=
  OpcodeField.all _
theorem OpcodeField.tcSyncGetFrame (cltuLen : Half) (derandomize : Bool) : OpcodeField.Statement (.tcSyncGetFrame cltuLen derandomize) :=
  OpcodeField.all _
theorem OpcodeField.tmSyncSynchronize (ch : BitVec 8) (asmLen : Half) (frameLen : Half) (randomize : Bool) : OpcodeField.Statement (.tmSyncSynchronize ch asmLen frameLen randomize) :=
  OpcodeField.all _
theorem OpcodeField.sdlpInitChannel (ch : BitVec 8) (cfg : ChannelConfig) : OpcodeField.Statement (.sdlpInitChannel ch cfg) :=
  OpcodeField.all _
theorem OpcodeField.sdlpStartFrame (ch : BitVec 8) : OpcodeField.Statement (.sdlpStartFrame ch) :=
  OpcodeField.all _
theorem OpcodeField.sdlpAddPacket (ch : BitVec 8) (len : Half) : OpcodeField.Statement (.sdlpAddPacket ch len) :=
  OpcodeField.all _
theorem OpcodeField.sdlpAddIdlePacket (ch : BitVec 8) (len : Half) : OpcodeField.Statement (.sdlpAddIdlePacket ch len) :=
  OpcodeField.all _
theorem OpcodeField.sdlpAddVcaData (ch : BitVec 8) (len : Half) : OpcodeField.Statement (.sdlpAddVcaData ch len) :=
  OpcodeField.all _
theorem OpcodeField.sdlpCompleteFrame (ch : BitVec 8) (ocfPresent : Bool) (ocf : Word) : OpcodeField.Statement (.sdlpCompleteFrame ch ocfPresent ocf) :=
  OpcodeField.all _
theorem OpcodeField.sdlpGetStatus (ch : BitVec 8) (selector : Half) : OpcodeField.Statement (.sdlpGetStatus ch selector) :=
  OpcodeField.all _

end Sys2Proof.Laws
end

