-- ==== Sys2Proof/Laws/Sdlp.lean ====
section
/-! SUPPORT. Laws of one channel context: what the layout guarantees, and that the operations of TM_SDLP keep the
invariants of 10_state.md R27. -/

namespace Sys2Proof.Machine

/-- The bounds of 00_scope.md R5, as numbers. -/
theorem Params.bounds {p : Params} (h : p.wellFormed = true) :
    70 ≤ p.frameCap ∧ p.frameCap ≤ 2048 ∧ 1 ≤ p.ovfCap ∧ p.ovfCap ≤ 65535 ∧ 63 ≤ p.inbufCap ∧ p.inbufCap ≤ 65535 ∧
      10 ≤ p.cltuCap ∧ p.cltuCap ≤ 65535 ∧ 1024 ≤ p.tcbufCap ∧ p.tcbufCap ≤ 65535 ∧ 4 ≤ p.asmCap ∧ p.asmCap ≤ 254 := by
  simp only [Params.wellFormed, Params.frameCapOk, Params.ovfCapOk, Params.inbufCapOk, Params.cltuCapOk,
    Params.tcbufCapOk, Params.asmCapOk, Bool.and_eq_true, decide_eq_true_eq] at h
  omega

/-- A configuration that passes the checks has the layout of 47_tm_sdlp.md R206 inside the frame. -/
theorem initCheck_none {p : Params} {g : ChannelConfig} (h : initCheck p g = none) :
    (g.sechdr = true ∧ g.sechdrLen ≠ 0 ∨ g.sechdr = false ∧ g.sechdrLen = 0) ∧ g.frameLen.toNat ≤ p.frameCap ∧
      headerLen g + trailerLen g + 1 ≤ g.frameLen.toNat := by
  unfold initCheck at h
  split at h
  · cases h
  · split at h
    · cases h
    · split at h
      · cases h
      · split at h
        · cases h
        · refine ⟨?_, by omega, by omega⟩
          cases hs : g.sechdr <;> simp_all

theorem initCheck_some {p : Params} {g : ChannelConfig} {st : Status} (h : initCheck p g = some st) : st ≠ .ok := by
  unfold initCheck at h
  split at h
  · cases h; decide
  · split at h
    · cases h; decide
    · split at h
      · cases h; decide
      · split at h
        · cases h; decide
        · cases h

theorem headerLen_bounds (g : ChannelConfig) : 6 ≤ headerLen g ∧ headerLen g ≤ 70 := by
  have := g.sechdrLen.isLt
  unfold headerLen; split <;> omega

/-- What the layout of an initialised channel guarantees (R206, 10_state.md R21, R27). -/
theorem Channel.layout_bounds {p : Params} {c : Channel} (h : c.layoutOk p = true) :
    6 ≤ c.dataOff.toNat ∧ 1 ≤ c.dataLen.toNat ∧ c.dataOff.toNat + c.dataLen.toNat ≤ c.frameLen.toNat ∧
      c.frameLen.toNat ≤ p.frameCap ∧
      (c.ocfFlag = true → c.dataOff.toNat + c.dataLen.toNat ≤ c.ocfOff.toNat ∧ c.ocfOff.toNat + 4 ≤ c.frameLen.toNat) ∧
      (c.fecfFlag = true → c.dataOff.toNat + c.dataLen.toNat ≤ c.fecfOff.toNat ∧
        c.fecfOff.toNat + 2 = c.frameLen.toNat) ∧
      (c.ocfFlag = true → c.fecfFlag = true → c.ocfOff.toNat + 4 = c.fecfOff.toNat) := by
  simp only [Channel.layoutOk, Bool.and_eq_true, beq_iff_eq] at h
  obtain ⟨⟨⟨⟨h1, h2⟩, h3⟩, h4⟩, h5⟩ := h
  obtain ⟨-, h6, h7⟩ := initCheck_none h1
  have h8 := headerLen_bounds c.config
  have e1 : c.config.ocf = c.ocfFlag := rfl
  have e2 : c.config.fecf = c.fecfFlag := rfl
  have e3 : c.config.frameLen = c.frameLen := rfl
  simp only [layoutDataLen, layoutOcfOff, layoutFecfOff, trailerLen, e1, e2, e3] at h2 h3 h4 h5 h6 h7
  cases ho : c.ocfFlag <;> cases hf : c.fecfFlag <;>
    simp only [ho, hf, Bool.false_eq_true, if_false, if_true, IsEmpty.forall_iff, forall_const] at * <;>
    refine ⟨by omega, by omega, by omega, by omega, ?_, ?_, ?_⟩ <;> first | trivial | omega

/-- The offsets of an initialised channel fit its frame buffer. -/
theorem Channel.trailersFit_of_layout {p : Params} {c : Channel} (h : c.layoutOk p = true) :
    c.trailersFit p = true := by
  obtain ⟨h1, h2, h3, h4, h5, h6, -⟩ := Channel.layout_bounds h
  simp only [Channel.trailersFit, crcBoundsOk, Bool.and_eq_true, Bool.or_eq_true, Bool.not_eq_true',
    decide_eq_true_eq]
  refine ⟨?_, ?_⟩
  · cases ho : c.ocfFlag
    · exact .inl rfl
    · have := h5 ho; exact .inr (by omega)
  · cases hf : c.fecfFlag
    · exact .inl rfl
    · have := h6 hf; exact .inr (by omega)

/-! ### The buffers stay canonical and within their capacities -/

theorem Memory.ok_tmSetFhp {f : Memory} {cap : Nat} (h : f.ok cap = true) (hc : 70 ≤ cap) (v : BitVec 11) :
    (tmSetFhp f v).ok cap = true :=
  Memory.ok_write (Memory.ok_write h (by omega) _) (by omega) _

theorem Memory.ok_updateCrc {f : Memory} {cap off : Nat} (h : f.ok cap = true) (hc : off + 2 ≤ cap) :
    (updateCrc f off).ok cap = true :=
  Memory.ok_write (Memory.ok_write (Memory.ok_write (Memory.ok_write h (by omega) _) (by omega) _) (by omega) _)
    (by omega) _

theorem Memory.ok_tmSetOcf {f : Memory} {cap off : Nat} (h : f.ok cap = true) (hc : off + 4 ≤ cap) (d : Word) :
    (tmSetOcf f off d).ok cap = true :=
  Memory.ok_writeBytes h (by simpa [wordOctets] using hc)

theorem Memory.ok_initHeader {cap : Nat} (hc : 70 ≤ cap) (g : ChannelConfig) : (initHeader g).ok cap = true := by
  have w {f : Memory} (h : f.ok cap = true) {a : Nat} (ha : a < 70) (v : Octet) : (f.write a v).ok cap = true :=
    Memory.ok_write h (by omega) v
  have h0 : (tmSetOcfFlag (tmSetVcid (tmSetScid (tmSetVersion Memory.cleared 1) g.scid) g.vcid) g.ocf).ok cap = true :=
    w (w (w (w (w (Memory.ok_cleared cap) (by omega) _) (by omega) _) (by omega) _) (by omega) _) (by omega) _
  unfold initHeader
  cases g.sechdr
  · exact w h0 (by omega) _
  · exact w (w (w h0 (by omega) _) (by omega) _) (by omega) _

theorem Channel.ok_setFhpIfNeeded {c : Channel} {cap : Nat} (h : c.frm.ok cap = true) (hc : 70 ≤ cap) :
    c.setFhpIfNeeded.frm.ok cap = true := by
  unfold Channel.setFhpIfNeeded
  split
  · exact h
  · exact Memory.ok_tmSetFhp h hc _

/-- A completed frame stays within its buffer. -/
theorem Channel.ok_completedFrame {p : Params} {c : Channel} (h : c.frm.ok p.frameCap = true) (hc : 70 ≤ p.frameCap)
    (ht : c.trailersFit p = true) (mc : BitVec 8) (d : Word) : (c.completedFrame mc d).ok p.frameCap = true := by
  have h1 : (writeCounts c.frm c.isVc mc (c.vcfc + 1)).ok p.frameCap = true := by
    unfold writeCounts
    split
    · exact Memory.ok_write (Memory.ok_write h (by omega) _) (by omega) _
    · exact Memory.ok_write h (by omega) _
  simp only [Channel.trailersFit, crcBoundsOk, Bool.and_eq_true, Bool.or_eq_true, Bool.not_eq_true',
    decide_eq_true_eq] at ht
  unfold Channel.completedFrame
  dsimp only
  have h2 : (if c.fhpSet = true then writeCounts c.frm c.isVc mc (c.vcfc + 1)
      else tmSetFhp (writeCounts c.frm c.isVc mc (c.vcfc + 1)) noFirstHeaderPointer).ok p.frameCap = true := by
    split
    · exact h1
    · exact Memory.ok_tmSetFhp h1 hc _
  generalize (if c.fhpSet = true then writeCounts c.frm c.isVc mc (c.vcfc + 1)
      else tmSetFhp (writeCounts c.frm c.isVc mc (c.vcfc + 1)) noFirstHeaderPointer) = f at h2
  have h3 : (if c.ocfFlag = true then tmSetOcf f c.ocfOff.toNat d else f).ok p.frameCap = true := by
    split
    · rename_i ho; exact Memory.ok_tmSetOcf h2 (by simpa [ho] using ht.1) _
    · exact h2
  split
  · rename_i hf; exact Memory.ok_updateCrc h3 (by have := ht.2; simp only [hf] at this; simp at this; omega)
  · exact h3

/-- A unit added stays within the buffers (R212). -/
theorem Channel.memOk_addUnit {p : Params} {c : Channel} (h : c.memOk p = true) (hc : 70 ≤ p.frameCap)
    (ho : 1 ≤ p.ovfCap) (inbuf : Memory) (len : Nat) (k : Bool)
    (hn : c.cur.toNat + min len c.free.toNat ≤ p.frameCap) : (c.addUnit p inbuf len k).memOk p = true := by
  simp only [Channel.memOk, Bool.and_eq_true] at h ⊢
  have hs : ∀ b : Bool, (if b = true then c.setFhpIfNeeded else c).frm.ok p.frameCap = true ∧
      (if b = true then c.setFhpIfNeeded else c).ovf = c.ovf ∧
      (if b = true then c.setFhpIfNeeded else c).cur = c.cur := by
    intro b; cases b
    · exact ⟨h.1, rfl, rfl⟩
    · refine ⟨Channel.ok_setFhpIfNeeded h.1 hc, ?_, ?_⟩ <;> simp only [if_true, Channel.setFhpIfNeeded] <;> split <;> rfl
  obtain ⟨h1, h2, h3⟩ := hs (k && decide (0 < min len c.free.toNat))
  unfold Channel.addUnit
  dsimp only
  generalize (if (k && decide (0 < min len c.free.toNat)) = true then c.setFhpIfNeeded else c) = c1 at h1 h2 h3
  have h4 : (c1.place (inbuf.readBytes 0 (min len c.free.toNat))).frm.ok p.frameCap = true :=
    Memory.ok_writeBytes h1 (by rw [h3]; simpa using hn)
  have h5 : (c1.place (inbuf.readBytes 0 (min len c.free.toNat))).ovf.ok p.ovfCap = true := by
    rw [show (c1.place (inbuf.readBytes 0 (min len c.free.toNat))).ovf = c.ovf from h2]; exact h.2
  unfold Channel.spill
  split
  · exact ⟨h4, h5⟩
  · exact ⟨h4, Memory.ok_writeRing h5 (by omega) _ _⟩

/-- A segment copied stays within the frame buffer, and the ring memory is not written (R210). -/
theorem Channel.memOk_copyFromOverflow {p : Params} {c : Channel} (h : c.memOk p = true) (hc : 70 ≤ p.frameCap)
    (g : Segment) (hn : c.overruns p (c.segmentFit g) = false) : (c.copyFromOverflow p g).memOk p = true := by
  simp only [Channel.memOk, Bool.and_eq_true] at h ⊢
  simp only [Channel.overruns, decide_eq_false_iff_not, not_lt] at hn
  have hs : ∀ b : Bool, (if b = true then c.setFhpIfNeeded else c).frm.ok p.frameCap = true ∧
      (if b = true then c.setFhpIfNeeded else c).ovf = c.ovf ∧
      (if b = true then c.setFhpIfNeeded else c).cur = c.cur := by
    intro b; cases b
    · exact ⟨h.1, rfl, rfl⟩
    · refine ⟨Channel.ok_setFhpIfNeeded h.1 hc, ?_, ?_⟩ <;> simp only [if_true, Channel.setFhpIfNeeded] <;> split <;> rfl
  obtain ⟨h1, h2, h3⟩ := hs (g.isPacket && !g.cont)
  unfold Channel.copyFromOverflow
  dsimp only
  generalize (if (g.isPacket && !g.cont) = true then c.setFhpIfNeeded else c) = c1 at h1 h2 h3
  refine ⟨Memory.ok_writeBytes h1 (by rw [h3]; simpa using hn), ?_⟩
  rw [show ((c1.place _).dropFromRing p _).ovf = c.ovf from h2]; exact h.2

theorem Channel.memOk_refill {p : Params} (hc : 70 ≤ p.frameCap) {l : List Segment} {c c' : Channel}
    (h : c.memOk p = true) (hr : Channel.refill p l c = .ok c') : c'.memOk p = true := by
  induction l generalizing c with
  | nil =>
    unfold Channel.refill at hr
    split at hr
    · cases hr
    · cases hr; exact h
  | cons g l ih =>
    unfold Channel.refill at hr
    split at hr
    · cases hr; exact h
    · split at hr
      · cases hr
      · rename_i hov
        have := Channel.memOk_copyFromOverflow h hc g (by simpa using hov)
        split at hr
        · exact ih this hr
        · cases hr; exact this

/-! ### The invariants of R27 -/

/-- The first header pointer aside, `set_fhp_if_needed` changes nothing (R211). -/
theorem Channel.setFhpIfNeeded_eq (c : Channel) :
    c.setFhpIfNeeded = { c with fhpSet := true, frm := c.setFhpIfNeeded.frm } := by
  unfold Channel.setFhpIfNeeded
  split
  · rename_i h; obtain ⟨⟩ := c; simp at h; subst h; rfl
  · rfl

/-- The registers after a unit was added (R212): what moved, in numbers. -/
theorem Channel.addUnit_eq (p : Params) (c : Channel) (inbuf : Memory) (len : Nat) (k : Bool) :
    c.addUnit p inbuf len k =
      { c with
        fhpSet := c.fhpSet || (k && decide (0 < min len c.free.toNat)),
        frm := (c.addUnit p inbuf len k).frm,
        ovf := if len ≤ c.free.toNat then c.ovf
          else c.ovf.writeRing p.ovfCap (c.ovfTail p) (inbuf.readBytes (min len c.free.toNat) (len - min len c.free.toNat)),
        cur := BitVec.ofNat 16 (c.cur.toNat + min len c.free.toNat),
        free := BitVec.ofNat 16 (c.free.toNat - min len c.free.toNat),
        ovfFree := BitVec.ofNat 17 (c.ovfFree.toNat - (len - min len c.free.toNat)),
        seg := if len ≤ c.free.toNat then c.seg
          else c.seg ++ [{ n := BitVec.ofNat 16 (len - min len c.free.toNat), isPacket := k,
                           cont := decide (0 < min len c.free.toNat) }] } := by
  have hs : ∃ f : Memory, (if (k && decide (0 < min len c.free.toNat)) = true then c.setFhpIfNeeded else c) =
      { c with fhpSet := c.fhpSet || (k && decide (0 < min len c.free.toNat)), frm := f } := by
    cases k && decide (0 < min len c.free.toNat)
    · exact ⟨c.frm, by simp⟩
    · exact ⟨c.setFhpIfNeeded.frm, by simp only [if_true, Bool.or_true]; exact c.setFhpIfNeeded_eq⟩
  obtain ⟨f, hs⟩ := hs
  unfold Channel.addUnit
  dsimp only
  rw [hs]
  unfold Channel.spill Channel.place
  simp only [Memory.length_readBytes]
  by_cases h : len ≤ c.free.toNat
  · simp only [h, Nat.min_eq_left, Nat.sub_self, Nat.sub_zero, if_true, BitVec.ofNat_toNat, BitVec.setWidth_eq]
  · simp only [h, show ¬ (len - min len c.free.toNat = 0) by omega, if_false]
    rfl

theorem segmentSum_append (l l' : List Segment) : segmentSum (l ++ l') = segmentSum l + segmentSum l' := by
  simp [segmentSum]

theorem segmentSum_eq_zero {l : List Segment} (h : l.all (fun g => decide (1 ≤ g.n.toNat)) = true) (hz : segmentSum l = 0) : l = [] := by
  cases l with
  | nil => rfl
  | cons g l => simp [segmentSum] at h hz; omega

/-- The invariants of R27 for an initialised channel, one by one. -/
theorem Channel.ok_iff_of_init {p : Params} {c : Channel} (hi : c.isInit = true) :
    c.ok p = true ↔ c.memOk p = true ∧ c.layoutOk p = true ∧ c.free.toNat ≤ c.dataLen.toNat ∧
      c.cur.toNat = c.dataOff.toNat + (c.dataLen.toNat - c.free.toNat) ∧ c.ovfFree.toNat ≤ p.ovfCap ∧
      c.ovfHead.toNat < p.ovfCap ∧ segmentSum c.seg = p.ovfCap - c.ovfFree.toNat ∧
      c.seg.all (fun g => decide (1 ≤ g.n.toNat)) = true ∧ c.seg.tail.all (fun g => !g.cont) = true ∧
      (c.isReady = true → 0 < c.free.toNat → p.ovfCap - c.ovfFree.toNat = 0) := by
  cases hr : c.isReady <;>
  simp only [Channel.ok, Channel.cursorOk, Channel.ringOk, Channel.cycleOk, Channel.pristine, Channel.ovfCount, hi, hr,
    Bool.and_eq_true, Bool.or_eq_true, Bool.not_eq_true', decide_eq_true_eq, beq_iff_eq, Bool.false_and, Bool.true_and,
    Bool.true_eq_false, decide_eq_false_iff_not, false_or, true_or, and_true, Bool.false_eq_true, true_implies, false_implies] <;> constructor <;> intro h <;> (try simp only [and_assoc] at h ⊢) <;> (try tauto)

/-- Adding a unit keeps the invariants of R27. -/
theorem Channel.ok_addUnit {p : Params} {c : Channel} (hp : p.wellFormed = true) (h : c.ok p = true)
    (hi : c.isInit = true) (hr : c.isReady = true) (inbuf : Memory) {len : Nat} (k : Bool) (h1 : 1 ≤ len)
    (h2 : len ≤ 65535) (h3 : len - min len c.free.toNat ≤ c.ovfFree.toNat) :
    (c.addUnit p inbuf len k).ok p = true := by
  obtain ⟨b1, b2, b3, b4, -⟩ := Params.bounds hp
  have hfl := c.free.isLt
  have hcl := c.cur.isLt
  have hol := c.ovfFree.isLt
  obtain ⟨hm, hl, hf, hcur, r1, r2, r3, r4, r5, hcy⟩ := (Channel.ok_iff_of_init hi).1 h
  obtain ⟨l1, l2, l3, l4, -⟩ := Channel.layout_bounds hl
  have hz : 0 < c.free.toNat → c.seg = [] := fun h0 => segmentSum_eq_zero r4 (r3.trans (hcy hr h0))
  have hmem := Channel.memOk_addUnit hm b1 b3 inbuf len k (by omega)
  rw [Channel.addUnit_eq] at hmem ⊢
  generalize (c.addUnit p inbuf len k).frm = F at *
  have e1 : (BitVec.ofNat 16 (c.cur.toNat + min len c.free.toNat)).toNat = c.cur.toNat + min len c.free.toNat := by
    simp only [BitVec.toNat_ofNat]; omega
  have e2 : (BitVec.ofNat 16 (c.free.toNat - min len c.free.toNat)).toNat = c.free.toNat - min len c.free.toNat := by
    simp only [BitVec.toNat_ofNat]; omega
  have e3 : (BitVec.ofNat 17 (c.ovfFree.toNat - (len - min len c.free.toNat))).toNat
      = c.ovfFree.toNat - (len - min len c.free.toNat) := by
    simp only [BitVec.toNat_ofNat]; omega
  have e4 : (BitVec.ofNat 16 (len - min len c.free.toNat)).toNat = len - min len c.free.toNat := by
    simp only [BitVec.toNat_ofNat]; omega
  refine (Channel.ok_iff_of_init (by exact hi)).2 ⟨hmem, hl, ?_, ?_, ?_, r2, ?_, ?_, ?_, ?_⟩ <;> dsimp only <;> try simp only [e1, e2, e3]
  · omega
  · omega
  · omega
  · split
    · omega
    · rw [segmentSum_append, r3]
      simp only [segmentSum, List.map_cons, List.map_nil, List.sum_cons, List.sum_nil, e4]
      omega
  · split
    · exact r4
    · simp only [List.all_append, r4, List.all_cons, List.all_nil, e4, Bool.true_and, Bool.and_true, decide_eq_true_eq]
      omega
  · split
    · exact r5
    · by_cases h0 : 0 < c.free.toNat
      · simp [hz h0]
      · have h0 : min len c.free.toNat = 0 := by omega
        cases hc : c.seg with
        | nil => simp
        | cons g l =>
          simp only [hc, List.tail_cons] at r5
          simp only [List.cons_append, List.tail_cons, List.all_append, r5, h0]
          simp
  · intro _ h0
    have := hcy hr (by omega)
    omega

/-- A segment copied from the ring (R210): what moved, in numbers. -/
theorem Channel.copyFromOverflow_eq (p : Params) (c : Channel) (g : Segment) :
    c.copyFromOverflow p g =
      { c with
        fhpSet := c.fhpSet || (g.isPacket && !g.cont),
        frm := (c.copyFromOverflow p g).frm,
        cur := BitVec.ofNat 16 (c.cur.toNat + c.segmentFit g),
        free := BitVec.ofNat 16 (c.free.toNat - c.segmentFit g),
        ovfHead := BitVec.ofNat 16 ((c.ovfHead.toNat + c.segmentFit g) % p.ovfCap),
        ovfFree := BitVec.ofNat 17 (c.ovfFree.toNat + c.segmentFit g) } := by
  have hs : ∃ f : Memory, (if (g.isPacket && !g.cont) = true then c.setFhpIfNeeded else c) =
      { c with fhpSet := c.fhpSet || (g.isPacket && !g.cont), frm := f } := by
    cases g.isPacket && !g.cont
    · exact ⟨c.frm, by simp⟩
    · exact ⟨c.setFhpIfNeeded.frm, by simp only [if_true, Bool.or_true]; exact c.setFhpIfNeeded_eq⟩
  obtain ⟨f, hs⟩ := hs
  unfold Channel.copyFromOverflow
  dsimp only
  rw [hs]
  unfold Channel.place Channel.dropFromRing
  simp only [Memory.length_readRing]

/-- The refill keeps the invariants of R27, and never stops (R209, R210). `l` are the segments of the octets in the
ring; the channel's own `seg` field is not used. -/
theorem Channel.ok_refill {p : Params} (hp : p.wellFormed = true) {l : List Segment} {c : Channel}
    (hi : c.isInit = true) (h : ({ c with seg := l, isReady := false } : Channel).ok p = true) :
    ∃ c', Channel.refill p l c = .ok c' ∧ c'.ok p = true ∧ c'.isInit = true ∧ c'.isReady = c.isReady := by
  obtain ⟨b1, b2, b3, b4, -⟩ := Params.bounds hp
  induction l generalizing c with
  | nil =>
    obtain ⟨hm, hl, hf, hcur, r1, r2, r3, r4, r5, -⟩ := (Channel.ok_iff_of_init (by exact hi)).1 h
    simp only [segmentSum, List.map_nil, List.sum_nil] at r3
    refine ⟨{ c with seg := [] }, ?_, ?_, hi, rfl⟩
    · unfold Channel.refill; rw [if_neg]; simp only [Channel.ovfCount]; omega
    · exact (Channel.ok_iff_of_init (by exact hi)).2 ⟨hm, hl, hf, hcur, r1, r2, r3, r4, r5, fun _ _ => r3.symm⟩
  | cons g l ih =>
    obtain ⟨hm, hl, hf, hcur, r1, r2, r3, r4, r5, -⟩ := (Channel.ok_iff_of_init (by exact hi)).1 h
    dsimp only at hf hcur r1 r2 r3 r4 r5
    obtain ⟨l1, l2, l3, l4, -⟩ := Channel.layout_bounds hl
    dsimp only at l1 l2 l3 l4
    simp only [segmentSum, List.map_cons, List.sum_cons] at r3
    simp only [List.all_cons, Bool.and_eq_true, decide_eq_true_eq] at r4
    simp only [List.tail_cons] at r5
    have hgn := g.n.isLt
    unfold Channel.refill
    by_cases h0 : c.ovfCount p = 0 ∨ c.free.toNat = 0
    · rw [if_pos h0]
      simp only [Channel.ovfCount] at h0
      refine ⟨_, rfl, (Channel.ok_iff_of_init (by exact hi)).2 ⟨hm, hl, hf, hcur, r1, r2, ?_, ?_, r5, ?_⟩, hi, rfl⟩
      · simpa [segmentSum] using r3
      · simpa using r4
      · intro _ h1; dsimp only at h1; exact h0.resolve_right (by omega)
    · rw [if_neg h0]
      have hov : c.overruns p (c.segmentFit g) = false := by
        rw [Channel.overruns, decide_eq_false_iff_not, Channel.segmentFit]; omega
      rw [hov]
      simp only [Bool.false_eq_true, if_false]
      have hmem := Channel.memOk_copyFromOverflow (c := c) (by simpa [Channel.memOk] using hm) b1 g hov
      have e1 : (BitVec.ofNat 16 (c.cur.toNat + c.segmentFit g)).toNat = c.cur.toNat + c.segmentFit g := by
        simp only [BitVec.toNat_ofNat, Channel.segmentFit]; omega
      have e2 : (BitVec.ofNat 16 (c.free.toNat - c.segmentFit g)).toNat = c.free.toNat - c.segmentFit g := by
        simp only [BitVec.toNat_ofNat, Channel.segmentFit]; omega
      have hfit : c.segmentFit g = min g.n.toNat c.free.toNat := rfl
      have e3 : (BitVec.ofNat 17 (c.ovfFree.toNat + c.segmentFit g)).toNat = c.ovfFree.toNat + c.segmentFit g := by
        simp only [BitVec.toNat_ofNat]; omega
      have e4 : (BitVec.ofNat 16 ((c.ovfHead.toNat + c.segmentFit g) % p.ovfCap)).toNat
          = (c.ovfHead.toNat + c.segmentFit g) % p.ovfCap := by
        have := Nat.mod_lt (c.ovfHead.toNat + c.segmentFit g) (show p.ovfCap > 0 by omega)
        simp only [BitVec.toNat_ofNat]; omega
      have e5 : (BitVec.ofNat 16 (g.n.toNat - c.segmentFit g)).toNat = g.n.toNat - c.segmentFit g := by
        simp only [BitVec.toNat_ofNat]; omega
      rw [Channel.copyFromOverflow_eq] at hmem ⊢
      generalize (c.copyFromOverflow p g).frm = F at *
      by_cases hg : c.segmentFit g = g.n.toNat
      · rw [if_pos hg]
        refine ih (by exact hi) ((Channel.ok_iff_of_init (by exact hi)).2 ⟨hmem, hl, ?_, ?_, ?_, ?_, ?_, r4.2, ?_, ?_⟩) <;>
          dsimp only <;> try simp only [e1, e2, e3, e4]
        · omega
        · omega
        · omega
        · exact Nat.mod_lt _ (by omega)
        · simp only [segmentSum]; omega
        · cases l with
          | nil => rfl
          | cons g' l => simp only [List.all_cons, Bool.and_eq_true] at r5; exact r5.2
        · intro h; cases h
      · rw [if_neg hg]
        refine ⟨_, rfl, (Channel.ok_iff_of_init (by exact hi)).2 ⟨hmem, hl, ?_, ?_, ?_, ?_, ?_, ?_, r5, ?_⟩, hi, rfl⟩ <;>
          dsimp only <;> try simp only [e1, e2, e3, e4]
        · omega
        · omega
        · omega
        · exact Nat.mod_lt _ (by omega)
        · simp only [segmentSum, List.map_cons, List.sum_cons, Segment.rest, e5]; omega
        · simp only [List.all_cons, Bool.and_eq_true, decide_eq_true_eq, Segment.rest, e5]; exact ⟨by omega, r4.2⟩
        · intro _ _; omega

/-- Completing a frame keeps the invariants of R27. -/
theorem Channel.ok_complete {p : Params} {c : Channel} (hp : p.wellFormed = true) (h : c.ok p = true)
    (hi : c.isInit = true) (mc : BitVec 8) (d : Word) : (c.complete mc d).ok p = true := by
  obtain ⟨b1, b2, b3, b4, -⟩ := Params.bounds hp
  obtain ⟨hm, hl, hf, hcur, r1, r2, r3, r4, r5, -⟩ := (Channel.ok_iff_of_init hi).1 h
  simp only [Channel.memOk, Bool.and_eq_true] at hm
  refine (Channel.ok_iff_of_init (by exact hi)).2 ⟨?_, hl, ?_, ?_, r1, r2, r3, r4, r5, ?_⟩
  · simp only [Channel.memOk, Bool.and_eq_true]
    exact ⟨Channel.ok_completedFrame hm.1 b1 (Channel.trailersFit_of_layout hl) mc d, hm.2⟩
  · exact Nat.le_refl _
  · simp only [Channel.complete]; omega
  · intro h; cases h

/-- Initialisation establishes the invariants of R27. -/
theorem Channel.ok_initialisedChannel {p : Params} {g : ChannelConfig} (hp : p.wellFormed = true)
    (h : initCheck p g = none) : (initialisedChannel p g).ok p = true := by
  obtain ⟨b1, b2, b3, b4, -⟩ := Params.bounds hp
  obtain ⟨-, h1, h2⟩ := initCheck_none h
  have h3 := headerLen_bounds g
  have hfl := g.frameLen.isLt
  have e1 : (BitVec.ofNat 16 (headerLen g)).toNat = headerLen g := by simp only [BitVec.toNat_ofNat]; omega
  have e2 : (BitVec.ofNat 16 (layoutDataLen g)).toNat = layoutDataLen g := by
    simp only [BitVec.toNat_ofNat, layoutDataLen]; omega
  have e3 : (BitVec.ofNat 16 (layoutOcfOff g)).toNat = layoutOcfOff g := by
    simp only [BitVec.toNat_ofNat, layoutOcfOff]; split <;> omega
  have e4 : (BitVec.ofNat 16 (layoutFecfOff g)).toNat = layoutFecfOff g := by
    simp only [BitVec.toNat_ofNat, layoutFecfOff]; split <;> omega
  have e5 : (BitVec.ofNat 17 p.ovfCap).toNat = p.ovfCap := by simp only [BitVec.toNat_ofNat]; omega
  have ec : (initialisedChannel p g).config = g := rfl
  refine (Channel.ok_iff_of_init rfl).2 ⟨?_, ?_, ?_, ?_, ?_, ?_, ?_, rfl, rfl, ?_⟩
  · simp only [Channel.memOk, Bool.and_eq_true]
    exact ⟨Memory.ok_initHeader b1 g, Memory.ok_cleared _⟩
  · rw [Channel.layoutOk, ec, h]
    simp only [initialisedChannel, e1, e2, e3, e4, beq_self_eq_true, Bool.and_self]
  · exact Nat.le_refl _
  · simp only [initialisedChannel, e1]; omega
  · simp only [initialisedChannel, e5]; omega
  · simp only [initialisedChannel]; simp; omega
  · simp only [initialisedChannel, e5, segmentSum]; simp
  · intro h; cases h

/-- Replacing the frame buffer keeps the invariants of R27 (R24). -/
theorem Channel.ok_setFrm {p : Params} {c : Channel} (h : c.ok p = true) {f : Memory} (hf : f.ok p.frameCap = true) :
    ({ c with frm := f } : Channel).ok p = true := by
  simp only [Channel.ok, Bool.and_eq_true] at h ⊢
  obtain ⟨⟨⟨⟨hm, hcu⟩, hri⟩, hcy⟩, hpr⟩ := h
  refine ⟨⟨⟨⟨?_, hcu⟩, hri⟩, hcy⟩, ?_⟩
  · simp only [Channel.memOk, Bool.and_eq_true] at hm ⊢; exact ⟨hf, hm.2⟩
  · simp only [Channel.pristine, Bool.or_eq_true, beq_iff_eq] at hpr ⊢
    rcases hpr with h | h
    · exact .inl h
    · right; rw [h]
end Sys2Proof.Machine
end

