-- ==== Sys2Proof/Tests/Slice0.lean ====
section
/-! SUPPORT. Tests: ill-formed capacities refused, every command's word decoded, one small step per command with the
values of 95_test_vectors.md, and for every statement that has hypotheses a state and operands that meet them. -/

namespace Sys2Proof.Tests

open Sys2Proof.Machine Sys2Proof.Claims

/-! ### WellFormed: each check of 00_scope.md R5 refuses a bad value, and the defaults pass -/

def defaults : Params := Config.defaultParams

theorem test_defaults_wellFormed : defaults.wellFormed = true ∧ Config.channelCountOk Config.defaultChannels = true := by
  decide

theorem test_frameCap_refused : ({ defaults with frameCap := 69 } : Params).wellFormed = false ∧
    ({ defaults with frameCap := 2049 } : Params).wellFormed = false := by decide

theorem test_ovfCap_refused : ({ defaults with ovfCap := 0 } : Params).wellFormed = false ∧
    ({ defaults with ovfCap := 65536 } : Params).wellFormed = false := by decide

theorem test_inbufCap_refused : ({ defaults with inbufCap := 62 } : Params).wellFormed = false ∧
    ({ defaults with inbufCap := 65536 } : Params).wellFormed = false := by decide

theorem test_cltuCap_refused : ({ defaults with cltuCap := 9 } : Params).wellFormed = false ∧
    ({ defaults with cltuCap := 65536 } : Params).wellFormed = false := by decide

theorem test_tcbufCap_refused : ({ defaults with tcbufCap := 1023 } : Params).wellFormed = false ∧
    ({ defaults with tcbufCap := 65536 } : Params).wellFormed = false := by decide

theorem test_asmCap_refused : ({ defaults with asmCap := 2 } : Params).wellFormed = false ∧
    ({ defaults with asmCap := 7 } : Params).wellFormed = false ∧
    ({ defaults with asmCap := 256 } : Params).wellFormed = false := by decide

theorem test_channelCount_refused : Config.channelCountOk 0 = false ∧ Config.channelCountOk 257 = false := by decide

/-- Every operand value is accepted (30_encoding.md R51): the widest operands are well formed. -/
theorem test_widest_operands_wellFormed : (Instr.bufWr 0xFF 0xFFFF 0xFFFF 0xFF).wellFormed = true := by decide

/-! ### Decoding: the word of every command, `op ch a b c` written out by 30_encoding.md R50 with the operands of its
rule; operand bits that no rule names are set in several words (R51) -/

theorem test_decode_host_access :
    decode 0x0111000400030000 = .ok (.bufRd 0x11 4 3) ∧ decode 0x02FF000107FF125A = .ok (.bufWr 0xFF 1 0x7FF 0x5A) := by
  decide

theorem test_decode_tctf :
    decode 0x2000000000000000 = .ok .tcGetVersion ∧ decode 0x21FFFFFFFFFFFFFF = .ok .tcGetBypass ∧
    decode 0x2200000000000000 = .ok .tcGetCtlcmd ∧ decode 0x2300000000000000 = .ok .tcGetScid ∧
    decode 0x2400000000000000 = .ok .tcGetVcid ∧ decode 0x2500000000000000 = .ok .tcGetLength ∧
    decode 0x2600000000000000 = .ok .tcGetSeq ∧ decode 0x2700000000000000 = .ok .tcGetSegFlags ∧
    decode 0x2800000000000000 = .ok .tcGetMapid := by decide

/-- The descriptors of C42.13, C42.26 and C42.21. -/
theorem test_decode_descriptor :
    decode 0x29000000307A9232 = .ok (.tcGetPayloadLen
      { svcType := .nonAccess, version := 0, scid := 0x123, vcid := 0x2A, mapid := 7, hasSeg := true, hasFecf := true }) ∧
    decode 0x2A000000D07A9236 = .ok (.tcCopyPayload
      { svcType := .nonAccess, version := 1, scid := 0x123, vcid := 0x2A, mapid := 7, hasSeg := true, hasFecf := false }) ∧
    decode 0x2B000000108A9231 = .ok (.tcIsValid
      { svcType := .access, version := 0, scid := 0x123, vcid := 0x2A, mapid := 8, hasSeg := true, hasFecf := false }) := by
  decide

theorem test_decode_tm_getters :
    decode 0x3001000000000000 = .ok (.tmGetVersion 1) ∧ decode 0x3102FFFFFFFFFFFF = .ok (.tmGetScid 2) ∧
    decode 0x3203000000000000 = .ok (.tmGetVcid 3) ∧ decode 0x3304000000000000 = .ok (.tmGetOcfFlag 4) ∧
    decode 0x3405000000000000 = .ok (.tmGetMcCount 5) ∧ decode 0x3506000000000000 = .ok (.tmGetVcCount 6) ∧
    decode 0x3607000000000000 = .ok (.tmGetSechdrFlag 7) ∧ decode 0x3708000000000000 = .ok (.tmGetSyncFlag 8) ∧
    decode 0x3809000000000000 = .ok (.tmGetPktOrderFlag 9) ∧ decode 0x390A000000000000 = .ok (.tmGetSegLenId 10) ∧
    decode 0x3A0B000000000000 = .ok (.tmGetFhp 11) ∧ decode 0x3B0C000000000000 = .ok (.tmGetSechdrLen 12) ∧
    decode 0x3C0D000000000000 = .ok (.tmGetGvcid 13) ∧ decode 0x3D0E000000000000 = .ok (.tmGetMcid 14) := by decide

theorem test_decode_tm_setters :
    decode 0x4000FFFF0000FFFE = .ok (.tmSetVersion 0 2) ∧ decode 0x410100000000FEAB = .ok (.tmSetScid 1 0x2AB) ∧
    decode 0x420200000000000D = .ok (.tmSetVcid 2 5) ∧ decode 0x4303000000000003 = .ok (.tmSetOcfFlag 3 true) ∧
    decode 0x4404000000001234 = .ok (.tmSetMcCount 4 0x34) ∧ decode 0x4505000000001256 = .ok (.tmSetVcCount 5 0x56) ∧
    decode 0x460600000000FFFE = .ok (.tmSetSechdrFlag 6 false) ∧ decode 0x4707000000000001 = .ok (.tmSetSyncFlag 7 true) ∧
    decode 0x4808000000000001 = .ok (.tmSetPktOrderFlag 8 true) ∧ decode 0x4909000000000006 = .ok (.tmSetSegLenId 9 2) ∧
    decode 0x4A0A00000000FDA5 = .ok (.tmSetFhp 10 0x5A5) := by decide

theorem test_decode_tm_helpers :
    decode 0x4B00000000000140 = .ok (.tmSetSechdrLen 0 0x140) ∧
    decode 0x4C01003F0000FFFF = .ok (.tmSetSechdrData 1 0x3F) ∧
    decode 0x4D0207FCDEADBEEF = .ok (.tmSetOcf 2 0x7FC 0xDEADBEEF) ∧
    decode 0x4E0307FE00000000 = .ok (.tmUpdateFecf 3 0x7FE) := by decide

theorem test_decode_cop1 :
    decode 0x500000000000FFEA = .ok (.cop1InitClcw 0x2A) ∧
    decode 0x5100FFFF00000004 = .ok (.cop1ProcessFrame true
      { svcType := .mcf, version := 1, scid := 0, vcid := 0, mapid := 0, hasSeg := false, hasFecf := false }) ∧
    decode 0x5200000000000000 = .ok .clcwGetCopEffect ∧ decode 0x5300000000000000 = .ok .clcwGetVcid ∧
    decode 0x5455123456789ABC = .ok .clcwRd := by decide

theorem test_decode_sync :
    decode 0x600004A200000001 = .ok (.tcSyncGetFrame 0x4A2 true) ∧
    decode 0x700100080800FFFE = .ok (.tmSyncSynchronize 1 8 0x800 false) := by decide

theorem test_decode_sdlp :
    decode 0x8003001802AB107D = .ok (.sdlpInitChannel 3
      { frameLen := 24, scid := 0x2AB, fecf := false, vcid := 5, ocf := true, sechdr := true, sechdrLen := 3, vca := false,
        isVc := true }) ∧
    decode 0x8104000000000000 = .ok (.sdlpStartFrame 4) ∧ decode 0x8205100000000000 = .ok (.sdlpAddPacket 5 0x1000) ∧
    decode 0x8306000700000000 = .ok (.sdlpAddIdlePacket 6 7) ∧ decode 0x8407000C00000000 = .ok (.sdlpAddVcaData 7 12) ∧
    decode 0x8508FFFE11223344 = .ok (.sdlpCompleteFrame 8 false 0x11223344) ∧
    decode 0x8609000D00000000 = .ok (.sdlpGetStatus 9 13) := by decide

/-- Reserved opcodes are rejected by name (C60.1, C60.8, C60.11). -/
theorem test_decode_reserved :
    decode 0 = .error (.illegalOp 0) ∧ decode 0x61FFFFFFFFFFFFFF = .error (.illegalOp 0x61) ∧
    decode 0xFFFFFFFFFFFFFFFF = .error (.illegalOp 0xFF) := by decide

/-! ### One step of each command, with the values of 95_test_vectors.md -/

/-- Octets from address 0 on, everything else `00`. -/
def mem (bs : List Octet) : Memory := Memory.cleared.writeBytes 0 bs

/-- The state after reset with octets in `TCBUF`. -/
def withTc (bs : List Octet) : State := { State.reset with tcbuf := mem bs }

/-- The state after reset with one channel. -/
def withChan (c : Channel) : State := { State.reset with chans := [c] }

/-- The state after reset with octets in `FRM[0]`. -/
def withFrm (bs : List Octet) : State := withChan { Channel.reset defaults with frm := mem bs }

/-- The state after reset with octets in `FRM[0]` and `INBUF`. -/
def withFrmIn (bs ins : List Octet) : State := { withFrm bs with inbuf := mem ins }

/-- What holds of the state after the command `w`. -/
def after (w : Command) (s : State) (p : State → Bool) : Bool :=
  match step { s with hostIn := [.command w] } with
  | .next t => p t
  | .fault _ => false
  | .refused _ => false

/-- The response of the command `w`. -/
def responds (w : Command) (s : State) (st : BitVec 8) (v : Word) : Bool :=
  after w s fun t => t.status == st && t.result == v && t.rspValid

/-- The first octets of `FRM[0]` after the command `w` answered `OK`. -/
def frmAfter (w : Command) (s : State) (bs : List Octet) : Bool :=
  after w s fun t => t.status == 0 &&
    (match t.chans with
     | c :: _ => c.frm.readBytes 0 bs.length == bs
     | [] => false)

/-- Frame X of C42. -/
def frameX : State := withTc [0x04, 0x23, 0xA8, 0x0B, 0x0A, 0x47, 0x01, 0x02, 0x03, 0x04, 0xDE, 0xAD]

/-- The header of C43.11. -/
def headerTm : State := withFrm [0x6A, 0xBB, 0x12, 0x34, 0xF5, 0xA5]

theorem test_buf_rd : responds 0x0100000400000000 State.reset 0 26 = true ∧
    responds 0x0100000400080000 State.reset 1 0 = true := by decide  -- C40.1, C40.4
theorem test_buf_wr : after 0x02000001000012AB State.reset (fun t => t.tcbuf == [(0, 0xAB)]) = true ∧
    responds 0x0200000500000001 State.reset 1 0 = true := by decide  -- C40.5, C40.9
theorem test_tc_get_version : responds 0x2000000000000000 (withTc [0xAB]) 0 2 = true := by decide  -- C40.7
theorem test_tc_get_bypass : responds 0x2100000000000000 (withTc [0x20]) 0 1 = true := by decide  -- C44.8's frame
theorem test_tc_get_ctlcmd : responds 0x2200000000000000 (withTc [0x14]) 0 1 = true := by decide  -- C42.29's octet
theorem test_tc_get_scid : responds 0x2300000000000000 frameX 0 291 = true := by decide  -- C42.4
theorem test_tc_get_vcid : responds 0x2400000000000000 frameX 0 42 = true := by decide  -- C42.5
theorem test_tc_get_length : responds 0x2500000000000000 (withTc [0, 0, 0xFD, 0xF3, 0]) 0 500 = true := by decide  -- A3.2
theorem test_tc_get_seq : responds 0x2600000000000000 frameX 0 10 = true := by decide  -- C42.7
theorem test_tc_get_seg_flags : responds 0x2700000000000000 frameX 0 1 = true ∧
    responds 0x2700000000000000 (withTc [0x14]) 0 255 = true := by decide  -- C42.8, C42.31
theorem test_tc_get_mapid : responds 0x2800000000000000 frameX 0 7 = true ∧
    responds 0x2800000000000000 (withTc [0x14]) 0 255 = true := by decide  -- C42.9, C42.30
theorem test_tc_get_payload_len : responds 0x29000000307A9232 frameX 0 4 = true ∧
    responds 0x2900000030000002 (withTc [0, 0, 0, 4]) 0 0 = true := by decide  -- C42.13, C42.36
theorem test_tc_copy_payload : after 0x2A000000307A9232 frameX
    (fun t => t.paybuf.readBytes 0 6 == [1, 2, 3, 4, 0, 0] && t.payLen == 4 && t.result == 4) = true := by
  decide  -- C42.14
theorem test_tc_is_valid : responds 0x2B000000107A9232 frameX 0 1 = true ∧
    responds 0x2B000000107A9233 frameX 0 0 = true := by decide  -- C42.16, C42.25
theorem test_tm_get_version : responds 0x3000000000000000 headerTm 0 1 = true := by decide  -- C43.12
theorem test_tm_get_scid : responds 0x3100000000000000 headerTm 0 683 = true ∧
    responds 0x3101000000000000 headerTm 1 0 = true := by decide  -- C43.13, C43.49
theorem test_tm_get_vcid : responds 0x3200000000000000 headerTm 0 5 = true := by decide  -- C43.14
theorem test_tm_get_ocf_flag : responds 0x3300000000000000 headerTm 0 1 = true := by decide  -- C43.15
theorem test_tm_get_mc_count : responds 0x3400000000000000 headerTm 0 18 = true := by decide  -- C43.16
theorem test_tm_get_vc_count : responds 0x3500000000000000 headerTm 0 52 = true := by decide  -- C43.17
theorem test_tm_get_sechdr_flag : responds 0x3600000000000000 headerTm 0 1 = true := by decide  -- C43.18
theorem test_tm_get_sync_flag : responds 0x3700000000000000 headerTm 0 1 = true := by decide  -- C43.19
theorem test_tm_get_pkt_order_flag : responds 0x3800000000000000 headerTm 0 1 = true := by decide  -- C43.20
theorem test_tm_get_seg_len_id : responds 0x3900000000000000 headerTm 0 2 = true := by decide  -- C43.21
theorem test_tm_get_fhp : responds 0x3A00000000000000 headerTm 0 1445 = true := by decide  -- C43.22
theorem test_tm_get_sechdr_len : responds 0x3B00000000000000 (withFrm [0, 0, 0, 0, 0, 0, 3]) 0 3 = true := by
  decide  -- C43.35
theorem test_tm_get_gvcid : responds 0x3C00000000000000 headerTm 0 13661 = true := by decide  -- C43.24
theorem test_tm_get_mcid : responds 0x3D00000000000000 headerTm 0 1707 = true := by decide  -- C43.25
theorem test_tm_set_version : frmAfter 0x400000000000FFFC (withFrm [0x7F, 0xFB]) [0x3F, 0xFB] = true := by
  decide  -- C43.31
theorem test_tm_set_scid : frmAfter 0x41000000000002AB (withFrm [0x40]) [0x6A, 0xB0] = true ∧
    frmAfter 0x410000000000FFFF (withFrm [0x6A, 0xBB]) [0x7F, 0xFB] = true := by decide  -- C43.2, C43.28
theorem test_tm_set_vcid : frmAfter 0x4200000000000005 (withFrm [0x6A, 0xB0]) [0x6A, 0xBA] = true := by
  decide  -- C43.3
theorem test_tm_set_ocf_flag : frmAfter 0x4300000000000001 (withFrm [0x6A, 0xBA]) [0x6A, 0xBB] = true := by
  decide  -- C43.4
theorem test_tm_set_mc_count : frmAfter 0x4400000000000012 (withFrm [0x6A, 0xBB]) [0x6A, 0xBB, 0x12] = true := by
  decide  -- C43.5
theorem test_tm_set_vc_count : frmAfter 0x4500000000000034 (withFrm [0x6A, 0xBB, 0x12]) [0x6A, 0xBB, 0x12, 0x34] = true := by
  decide  -- C43.6
theorem test_tm_set_sechdr_flag : frmAfter 0x4600000000000000 (withFrm [0, 0, 0, 0, 0xDF, 0xFE]) [0, 0, 0, 0, 0x5F, 0xFE] = true := by
  decide  -- C43.40
theorem test_tm_set_sync_flag : frmAfter 0x4700000000000000 headerTm [0x6A, 0xBB, 0x12, 0x34, 0x9D, 0xA5] = true ∧
    frmAfter 0x4700000000000001 (withFrm [0, 0, 0, 0, 0x9D, 0xA5]) [0, 0, 0, 0, 0xDD, 0xA5] = true := by
  decide  -- C43.26, C43.27
theorem test_tm_set_pkt_order_flag : frmAfter 0x4800000000000001 (withFrm [0, 0, 0, 0, 0xC0]) [0, 0, 0, 0, 0xE0] = true := by
  decide  -- C43.9
theorem test_tm_set_seg_len_id : frmAfter 0x4900000000000002 (withFrm [0, 0, 0, 0, 0xE0]) [0, 0, 0, 0, 0xF0] = true := by
  decide  -- C43.10
theorem test_tm_set_fhp : frmAfter 0x4A000000000005A5 (withFrm [0, 0, 0, 0, 0xF0]) [0, 0, 0, 0, 0xF5, 0xA5] = true := by
  decide  -- C43.11
theorem test_tm_set_sechdr_len : frmAfter 0x4B00000000000003 (withFrm [0, 0, 0, 0, 0xDF]) [0, 0, 0, 0, 0xDF, 0, 3] = true ∧
    responds 0x4B00000000000040 (withFrm [0, 0, 0, 0, 0xDF]) 5 0 = true := by decide  -- C43.34, C43.33
theorem test_tm_set_sechdr_data : frmAfter 0x4C00000300000000
    (withFrmIn [0, 0, 0, 0, 0xDF, 0, 3] [0xA1, 0xA2, 0xA3, 0xA4]) [0, 0, 0, 0, 0xDF, 0, 3, 0xA1, 0xA2, 0xA3, 0] = true ∧
    responds 0x4C00000400000000 (withFrm [0, 0, 0, 0, 0xDF, 0, 3]) 5 0 = true := by decide  -- C43.37, C43.36
theorem test_tm_set_ocf : frmAfter 0x4D00000601A80014 (withFrm [0, 1]) [0, 1, 0, 0, 0, 0, 0x01, 0xA8, 0x00, 0x14] = true ∧
    responds 0x4D0007FDDEADBEEF (withFrm [0, 1]) 5 0 = true := by decide  -- R144; C43.46
theorem test_tm_update_fecf : frmAfter 0x4E00000900000000
    (withFrm [0x31, 0x32, 0x33, 0x34, 0x35, 0x36, 0x37, 0x38, 0x39])
    [0x31, 0x32, 0x33, 0x34, 0x35, 0x36, 0x37, 0x38, 0x39, 0xE5, 0xCC] = true ∧
    frmAfter 0x4E00000600000000 (withFrm [0xFF, 0xFF, 0xFF, 0xFF, 0xFF, 0xFF, 0xFF, 0xFF])
    [0xFF, 0xFF, 0xFF, 0xFF, 0xFF, 0xFF, 0xA6, 0xE1] = true := by set_option maxRecDepth 20000 in decide  -- A2, C41.2

/-- The CLCW of A4: initialised for virtual channel 1, then V(R) set to 10. -/
def clcwA4 : Clcw := { Clcw.initialised 1 with farmB := 1, report := 10 }

/-- The state of A4 with a data frame of sequence number `ns` in `TCBUF`. -/
def farmState (ns : Octet) : State := { withTc [0x00, 0x00, 0x04, 0x05, ns, 0xAA] with clcw := clcwA4 }

theorem test_cop1_init_clcw : after 0x50FFFFFFFFFFFFEA State.reset (fun t => t.clcwOut == 0x01A80000 && t.status == 0) = true := by
  decide  -- C60.13
theorem test_cop1_process_frame : after 0x5100000100000000 (farmState 10)
    (fun t => t.clcwOut == 0x0104020B && t.status == 0 && t.result == 1 && t.payLen == 1 && t.paybuf.read 0 == 0xAA) = true ∧
    after 0x5100000100000000 (farmState 128) (fun t => t.clcwOut == 0x0104220A && t.status == 3) = true := by
  decide  -- A4.1, A4.4
theorem test_cop1_process_control : after 0x5100000000000000
    { withTc [0x30, 0x00, 0x04, 0x05, 0x00, 0x00] with clcw := { clcwA4 with lockout := true, report := 1 } }
    (fun t => t.clcwOut == 0x01040401 && t.status == 0) = true := by decide  -- C44.13
theorem test_clcw_get_cop_effect : responds 0x5200000000000000 { State.reset with clcw := Clcw.initialised 42 } 0 1 = true := by
  decide  -- A5.3
theorem test_clcw_get_vcid : responds 0x5300000000000000 { State.reset with clcw := Clcw.initialised 42 } 0 42 = true := by
  decide  -- A5.4
theorem test_clcw_rd : responds 0x5400000000000000 { State.reset with clcw := Clcw.initialised 42 } 0 0x01A80000 = true := by
  decide  -- A5.5

/-- The state after reset with octets in `CLTU`. -/
def withCltu (bs : List Octet) : State := { State.reset with cltu := mem bs }

/-- The randomised CLTU of C45. -/
def cltuRand : State := withCltu [0xEB, 0x90, 0xFB, 0x1A, 0x36, 0x52, 0x62, 0x29, 0x17, 0x00, 0xD7, 0x5F, 0xDC, 0x7A, 0xF4,
  0x64, 0x0B, 0x00, 0xC5, 0xC5, 0xC5, 0xC5, 0xC5, 0xC5, 0xC5, 0x79]

theorem test_tc_sync_get_frame : after 0x6000001A00000001 cltuRand (fun t => t.status == 0 && t.result == 14 && t.tcLen == 14 &&
      t.tcbuf.readBytes 0 14 == [0x04, 0x23, 0xA8, 0x08, 0x0A, 0xC0, 0x11, 0x22, 0x33, 0x55, 0x55, 0x55, 0x55, 0x55]) = true ∧
    responds 0x6000001900000000 cltuRand 9 0 = true := by decide  -- C45.3, C45.5
theorem test_tm_sync_synchronize : after 0x7000000400080001 State.reset (fun t => t.status == 0 && t.result == 12 &&
      t.cadu.readBytes 0 12 == [0x1A, 0xCF, 0xFC, 0x1D, 0xFF, 0x48, 0x0E, 0xC0, 0x9A, 0x0D, 0x70, 0xBC]) = true ∧
    responds 0x7000000200000000 State.reset 0x0A 0 = true := by decide  -- A7.3, C46.6

/-! TM_SDLP: the VCA channel of C47.37 to C47.42 and the channels of C47.17 to C47.22. -/

/-- The configuration of C47.37. -/
def cfgVca : ChannelConfig :=
  { frameLen := 16, scid := 1, fecf := false, vcid := 1, ocf := false, sechdr := false, sechdrLen := 0, vca := true, isVc := true }

/-- The channel of C47.37 once started. -/
def chVca : Channel := { initialisedChannel defaults cfgVca with isReady := true }

/-- `40 .. 4B`. -/
def octetsVca : List Octet := [0x40, 0x41, 0x42, 0x43, 0x44, 0x45, 0x46, 0x47, 0x48, 0x49, 0x4A, 0x4B]

/-- The channel after C47.39: ten octets placed, two spilled. -/
def chFull : Channel := chVca.addUnit defaults (mem octetsVca) 12 false

/-- The channel after C47.40: the frame closed, two octets still in the ring. -/
def chClosed : Channel := chFull.complete 1 0

theorem test_sdlp_init_channel : frmAfter 0x8000001802AB107D State.reset [0x6A, 0xBB, 0x00, 0x00, 0x98, 0x00, 0x03] = true ∧
    responds 0x8000002006AB104D State.reset 4 0 = true := by decide  -- C47.19, C47.12
theorem test_sdlp_start_frame : after 0x8100000000000000 (withChan chClosed) (fun t => t.status == 0 &&
      t.chans.all (fun c => c.free == 8 && c.ovfFree == 4096 && c.seg == [] && c.isReady)) = true ∧
    responds 0x8100000000000000 State.reset 6 0 = true := by decide  -- C47.41, C47.1
theorem test_sdlp_add_packet : after 0x8200000C00000000 { withChan chVca with inbuf := mem octetsVca }
      (fun t => t.status == 0 && t.result == 10 && t.chans.all (fun c => c.fhpSet && c.frm.readBytes 4 2 == [0x40, 0x00] &&
        c.seg == [{ n := 2, isPacket := true, cont := true }])) = true ∧
    responds 0x8200000400000000 State.reset 6 0 = true := by decide  -- R211, R212; C47.2
theorem test_sdlp_add_idle_packet : after 0x8300000400000000 { withChan chVca with inbuf := mem octetsVca }
      (fun t => t.status == 0 && t.result == 4 && t.chans.all (fun c => c.fhpSet && c.cur == 10 &&
        c.frm.readBytes 6 5 == [0x40, 0x41, 0x42, 0x43, 0x00])) = true ∧
    responds 0x8300000400000000 State.reset 6 0 = true := by decide  -- R212, R214; C47.3
theorem test_sdlp_add_vca_data : after 0x8400000C00000000 { withChan chVca with inbuf := mem octetsVca }
      (fun t => t.status == 0 && t.result == 10 && t.chans.all (fun c => c.free == 0 && c.ovfFree == 4094 && !c.fhpSet &&
        c.seg == [{ n := 2, isPacket := false, cont := true }])) = true ∧
    responds 0x8400000400000000 State.reset 6 0 = true := by decide  -- C47.39, C47.4
theorem test_sdlp_complete_frame : frmAfter 0x8500000000000000 (withChan chFull)
    [0x40, 0x12, 0x01, 0x01, 0x47, 0xFF, 0x40, 0x41, 0x42, 0x43, 0x44, 0x45, 0x46, 0x47, 0x48, 0x49] = true ∧
    after 0x8500000000000000 (withChan chFull) (fun t => t.result == 16 && t.mcfc == 1 &&
      t.chans.all (fun c => c.vcfc == 1 && !c.isReady)) = true := by decide  -- C47.40
theorem test_sdlp_get_status : responds 0x8600000700000000 (withChan chFull) 0 4094 = true ∧
    responds 0x8600000E00000000 State.reset 1 0 = true := by decide  -- C47.39, C47.9

theorem test_illegal_op : responds 0 State.reset 0x0C 0 = true := by decide  -- C60.1

/-! ### Witnesses: for every statement with hypotheses, a state and operands that meet them together, at boundary values
where a clause has a range. The name after `witness_` is the statement's. -/

/-- The result is a next state of which `p` holds. -/
def nextSat (r : Result) (p : State → Bool) : Bool :=
  match r with
  | .next t => p t
  | .fault _ => false
  | .refused _ => false

/-- The capacities at their lower and upper bounds (R5). -/
def minParams : Params := { frameCap := 70, ovfCap := 1, inbufCap := 63, cltuCap := 10, tcbufCap := 1024, asmCap := 4 }
def maxParams : Params :=
  { frameCap := 2048, ovfCap := 65535, inbufCap := 65535, cltuCap := 65535, tcbufCap := 65535, asmCap := 254 }

theorem witness_DecodeAfterEncodeIsIdentity : (Instr.tmSetFhp 255 0x7FF).wellFormed = true := by decide

theorem witness_OpcodeMapDecodesEveryCommand :
    ([0x01, 0x02] ++ List.range' 0x20 12 ++ List.range' 0x30 14 ++ List.range' 0x40 15 ++ List.range' 0x50 5 ++
      [0x60, 0x70] ++ List.range' 0x80 7).all
      (fun n => ((BitVec.ofNat 64 n <<< 56 : Command).extractLsb' 56 8).toNat == n) = true := by decide

/-- The ends of every reserved range, and the opcodes next to them. -/
theorem witness_DecoderRejectsExactlyReservedOpcodes :
    (∀ n ∈ [0x00, 0x03, 0x1F, 0x2C, 0x2F, 0x3E, 0x3F, 0x4F, 0x55, 0x5F, 0x61, 0x6F, 0x71, 0x7F, 0x87, 0xFF],
      ReservedOp n) ∧
    (∀ n ∈ [0x01, 0x02, 0x20, 0x2B, 0x30, 0x3D, 0x40, 0x4E, 0x50, 0x54, 0x60, 0x70, 0x80, 0x86], ¬ReservedOp n) := by
  unfold ReservedOp; decide

/-- The state after reset with one event pending. -/
def pending (e : HostEvent) : State := { State.reset with hostIn := [e] }

theorem witness_StepRunsDecodedCommand : (pending (.command 0x2500000000000000)).hostIn = .command 0x2500000000000000 :: [] ∧
    decode 0x2500000000000000 = .ok .tcGetLength ∧ Instr.tcGetLength.wellFormed = true := by decide

theorem witness_ReservedOpcodeAnswersIllegalOp : (pending (.command 0)).hostIn = .command 0 :: [] ∧
    ReservedOp ((0 : Command).extractLsb' 56 8).toNat := by unfold ReservedOp; decide

theorem witness_ResetEventRestoresResetState : (pending (.reset (some 0x2500000000000000))).hostIn =
    .reset (some 0x2500000000000000) :: [] := by decide

theorem witness_ResetStateIsSound : minParams.wellFormed = true ∧ maxParams.wellFormed = true ∧
    Config.channelCountOk 1 = true ∧ Config.channelCountOk 256 = true := by decide

/-- A sound state with a full frame, octets in the ring, and a command pending that changes the channel. -/
def soundState : State := { withChan chFull with hostIn := [.command 0x8500000000000000] }

theorem witness_EveryStepKeepsSoundness : soundState.Ok = true ∧ nextSat (step soundState) (fun t => t.mcfc == 1) = true := by
  decide

theorem witness_SoundStateNeverStops : soundState.Ok = true := by decide

theorem witness_EveryStepKeepsBuffersInBounds : soundState.paramsOk = true ∧ soundState.buffersOk = true ∧
    soundState.chans.all (fun c => c.memOk soundState.params) = true ∧ nextSat (step soundState) (fun _ => true) = true := by
  decide

theorem witness_EveryStepKeepsClcwConstantFields : (pending (.command 0x500000000000002A)).clcw.ok = true ∧
    nextSat (step (pending (.command 0x500000000000002A))) (fun t => t.clcw.vcid == 42) = true := by decide

theorem witness_EveryStepKeepsResponseRegisters : (pending (.command 0)).responseOk = true ∧
    nextSat (step (pending (.command 0))) (fun t => t.status == 0x0C) = true := by decide

theorem witness_ExecKeepsInputsAndCapacities : nextSat (exec .clcwRd State.reset) (fun _ => true) = true := by decide

/-- A descriptor of the service that examines no channel field, with version and spacecraft id 0. -/
def mcf : ServiceDescriptor :=
  { svcType := .mcf, version := 0, scid := 0, vcid := 0, mapid := 0, hasSeg := false, hasFecf := false }

/-- The state of A4 in Lockout with octets in `TCBUF`. -/
def lockedOut (bs : List Octet) : State := { withTc bs with clcw := { clcwA4 with lockout := true } }

/-- SET-V(R) 5 of spacecraft 0. -/
def setVr5 : List Octet := [0x30, 0x00, 0x04, 0x07, 0x00, 0x82, 0x00, 0x05]

/-- The data frame of `farmState 11`. -/
def sequenced11 : List Octet := [0x00, 0x00, 0x04, 0x05, 11, 0xAA]

/-- R249's four situations, the window's at the ends of their ranges (deltas 1, 62, 63, 192). -/
theorem witness_ErrorsChangeNothingButTheFourCases_situations :
    (ValidFor (farmState 11).tcbuf mcf ∧ PositiveEdge (farmState 11)) ∧
    (ValidFor (farmState 72).tcbuf mcf ∧ PositiveEdge (farmState 72)) ∧
    (ValidFor (farmState 73).tcbuf mcf ∧ LockoutEdge (farmState 73)) ∧
    (ValidFor (farmState 202).tcbuf mcf ∧ LockoutEdge (farmState 202)) ∧
    (ValidFor (lockedOut setVr5).tcbuf mcf ∧ SetVrInLockout (lockedOut setVr5)) ∧
    (ValidFor (farmState 10).tcbuf mcf ∧ PassEdge (farmState 10)) := by
  unfold ValidFor PassEdge PositiveEdge LockoutEdge SetVrInLockout SequencedAt
  refine ⟨?_, ?_, ?_, ?_, ?_, ?_⟩ <;> decide

/-- Errors outside the four: of another command, in the negative window (delta 193), and in Lockout at delta 1. -/
theorem witness_ErrorsChangeNothingButTheFourCases :
    nextSat (exec (.tmGetScid 1) State.reset) (fun t => t.status != 0) = true ∧
    (nextSat (exec (.cop1ProcessFrame true mcf) (farmState 203)) (fun t => t.status != 0) = true ∧
      ¬PositiveEdge (farmState 203) ∧ ¬LockoutEdge (farmState 203) ∧ ¬SetVrInLockout (farmState 203) ∧
      ¬PassEdge (farmState 203)) ∧
    (nextSat (exec (.cop1ProcessFrame true mcf) (lockedOut sequenced11)) (fun t => t.status != 0) = true ∧
      ¬PositiveEdge (lockedOut sequenced11) ∧ ¬LockoutEdge (lockedOut sequenced11) ∧
      ¬SetVrInLockout (lockedOut sequenced11) ∧ ¬PassEdge (lockedOut sequenced11)) := by
  unfold PassEdge PositiveEdge LockoutEdge SetVrInLockout SequencedAt; decide

theorem witness_ClcwWrittenOnlyByFarm : nextSat (exec (.cop1InitClcw 1) State.reset) (fun t => t.clcw != Clcw.reset) = true ∧
    nextSat (exec (.cop1ProcessFrame true mcf) (farmState 10)) (fun t => t.clcw != (farmState 10).clcw) = true := by decide

/-- UNLOCK leaves Lockout; SET-V(R) and an accepted frame move V(R). -/
theorem witness_LockoutAndVrMoveOnlyByTheRules :
    nextSat (exec (.cop1ProcessFrame true mcf) (lockedOut [0x30, 0x00, 0x04, 0x05]))
      (fun t => (lockedOut []).clcw.lockout && !t.clcw.lockout) = true ∧
    nextSat (exec (.cop1ProcessFrame true mcf) (withTc setVr5)) (fun t => t.clcw.report != 0) = true ∧
    nextSat (exec (.cop1ProcessFrame true mcf) (farmState 10)) (fun t => t.clcw.report != 10) = true := by decide

theorem witness_OtherChannelsAreUntouched : nextSat (exec (.sdlpStartFrame 0) (withChan chClosed)) (fun _ => true) = true ∧
    (1 ≠ (Instr.sdlpStartFrame 0).fieldCh.toNat) ∧ nextSat (exec .clcwRd State.reset) (fun _ => true) = true ∧
    ¬WritesChannel .clcwRd ∧ ¬WritesChannel (.sdlpGetStatus 0 0) ∧ ¬WritesChannel (.tmGetMcid 0) := by
  unfold WritesChannel; decide

theorem witness_MasterCountMovesOnlyByCompletion :
    nextSat (exec (.sdlpCompleteFrame 0 false 0) (withChan chFull)) (fun t => t.mcfc != (withChan chFull).mcfc) = true := by
  decide

/-- Each clause's buffer or register does change. -/
theorem witness_BuffersAreWrittenOnlyByTheirCommands :
    nextSat (exec (.bufWr 0 0 0 1) State.reset) (fun t => t.cltu != []) = true ∧
    nextSat (exec (.bufWr 0 1 0 1) State.reset) (fun t => t.tcbuf != []) = true ∧
    nextSat (exec (.bufWr 0 3 0 1) State.reset) (fun t => t.inbuf != []) = true ∧
    nextSat (exec (.bufWr 0 4 0 1) State.reset) (fun t => t.asmbuf != asmbufReset) = true ∧
    nextSat (exec (.tcCopyPayload mcf) frameX) (fun t => t.paybuf != [] && t.payLen != 0) = true ∧
    nextSat (exec (.tcSyncGetFrame 26 true) cltuRand) (fun t => t.tcbuf != [] && t.tcLen != 0) = true ∧
    nextSat (exec (.tmSyncSynchronize 0 4 8 false) State.reset) (fun t => t.cadu != [] && t.caduLen != 0) = true ∧
    nextSat (exec (.sdlpAddVcaData 0 12) { withChan chVca with inbuf := mem octetsVca })
      (fun t => t.chans.all (fun c => c.ovf != chVca.ovf)) = true := by decide

/-- The first channel number that does not exist, and the ends of the opcode ranges that use `ch`. -/
theorem witness_MissingChannelIsInvalidArgument :
    State.reset.chans.length ≤ (Instr.tmGetVersion 1).fieldCh.toNat ∧ UsesChannel (.tmGetVersion 1) ∧
    UsesChannel (.tmUpdateFecf 1 6) ∧ UsesChannel (.tmSyncSynchronize 1 4 1 false) ∧ UsesChannel (.sdlpGetStatus 1 0) ∧
    State.reset.chans.length ≤ (Instr.bufRd 1 6 0).fieldCh.toNat ∧
    State.reset.chans.length ≤ (Instr.bufWr 1 6 0 0).fieldCh.toNat := by unfold UsesChannel; decide

/-- The last octet of every space. -/
theorem witness_BufRdReturnsTheOctet : (1185#16).toNat < defaults.cltuCap ∧ (1028#16).toNat < defaults.tcbufCap ∧
    (1018#16).toNat < 1019 ∧ (4095#16).toNat < defaults.inbufCap ∧ (7#16).toNat < defaults.asmCap ∧
    (2055#16).toNat < defaults.asmCap + defaults.frameCap ∧ State.reset.chans[(0#8).toNat]? = some (Channel.reset defaults) ∧
    (2047#16).toNat < defaults.frameCap := by decide

theorem witness_BufWrStoresTheOctet : (1185#16).toNat < State.reset.params.cltuCap ∧
    (1028#16).toNat < State.reset.params.tcbufCap ∧ (4095#16).toNat < State.reset.params.inbufCap ∧
    (7#16).toNat < State.reset.params.asmCap ∧ State.reset.chans[(0#8).toNat]? = some (Channel.reset defaults) ∧
    (2047#16).toNat < State.reset.params.frameCap := by decide

/-- The first address beyond every space, and the first space that does not exist. -/
theorem witness_BufferAccessRejections : 6 < (7#16).toNat ∧ defaults.cltuCap ≤ (1186#16).toNat ∧
    defaults.tcbufCap ≤ (1029#16).toNat ∧ 1019 ≤ (1019#16).toNat ∧ defaults.inbufCap ≤ (4096#16).toNat ∧
    defaults.asmCap ≤ (8#16).toNat ∧ defaults.asmCap + defaults.frameCap ≤ (2056#16).toNat ∧
    defaults.frameCap ≤ (2048#16).toNat := by decide

theorem witness_WrittenOctetIsReadBack :
    nextSat (exec (.bufWr 0 6 2047 0x5A) State.reset) (fun t => t.status == 0) = true ∧ (0#16 ≠ 2047#16) ∧
    nextSat (exec (.bufRd 0 6 0) State.reset) (fun _ => true) = true := by decide

/-- Frames valid and not valid, for each service type. -/
theorem witness_TcIsValidFollowsTheClauses : ValidFor (mem []) mcf ∧ ValidFor (mem []) { mcf with svcType := .access } ∧
    ValidFor (mem []) { mcf with svcType := .nonAccess } ∧ ¬ValidFor (mem []) { mcf with svcType := .reserved } ∧
    ¬ValidFor (mem [0x10]) mcf ∧ ¬ValidFor (mem []) { mcf with svcType := .access, vcid := 1 } := by
  unfold ValidFor; decide

theorem witness_TmGettersReadTheirFields : headerTm.chans[(0#8).toNat]? =
    some { Channel.reset defaults with frm := mem [0x6A, 0xBB, 0x12, 0x34, 0xF5, 0xA5] } := by decide

theorem witness_TmSettersWriteTheirFields : headerTm.chans[(0#8).toNat]? =
    some { Channel.reset defaults with frm := mem [0x6A, 0xBB, 0x12, 0x34, 0xF5, 0xA5] } := by decide

/-- The flag clear; the flag set with lengths 0, 1, 63 and 64; the stored length, and one more than it. -/
theorem witness_TmSecondaryHeaderHelpers :
    (withFrm [0, 0, 0, 0, 0xDF, 0, 3]).chans[(0#8).toNat]? =
      some { Channel.reset defaults with frm := mem [0, 0, 0, 0, 0xDF, 0, 3] } ∧
    oct (mem []) 4 / 128 = 0 ∧ oct (mem [0, 0, 0, 0, 0xDF, 0, 3]) 4 / 128 = 1 ∧ (0#16).toNat = 0 ∧ 63 < (64#16).toNat ∧
    1 ≤ (1#16).toNat ∧ (63#16).toNat ≤ 63 ∧ oct (mem [0, 0, 0, 0, 0xDF, 0, 3]) 6 % 64 < (4#16).toNat ∧
    (3#16).toNat ≤ oct (mem [0, 0, 0, 0, 0xDF, 0, 3]) 6 % 64 := by decide

theorem witness_TmSetOcfWritesFourOctets :
    (withFrm [0, 1]).chans[(0#8).toNat]? = some { Channel.reset defaults with frm := mem [0, 1] } ∧
    oct (mem []) 1 % 2 = 0 ∧ oct (mem [0, 1]) 1 % 2 = 1 ∧ (withFrm [0, 1]).params.frameCap < (0x7FD#16).toNat + 4 ∧
    (0x7FC#16).toNat + 4 ≤ (withFrm [0, 1]).params.frameCap := by decide

/-- The offsets 5, 6, 0x7FE and 0x7FF (C41.4, C41.1, C41.6, C41.7). -/
theorem witness_TmUpdateFecfWritesTheCrc : State.reset.chans[(0#8).toNat]? = some (Channel.reset defaults) ∧
    (5#16).toNat < 6 ∧ State.reset.params.frameCap < (0x7FF#16).toNat + 2 ∧ 6 ≤ (6#16).toNat ∧
    (0x7FE#16).toNat + 2 ≤ State.reset.params.frameCap := by decide

theorem witness_UpdatedFrameChecksToZero : nextSat (exec (.tmUpdateFecf 0 6) State.reset)
    (fun t => t.status == 0 && t.chans[(0#8).toNat]?.isSome) = true := by decide

theorem witness_WhitenerXorsTheWindow : ([0x5A#8] : List Octet)[0]? = some 0x5A#8 := by decide

theorem witness_InitClcwSetsTheWord : (0x50FFFFFFFFFFFFEA : Command).extractLsb' 56 8 = 0x50 := by decide

theorem witness_ClcwReadsReturnItsFields : (0x52FFFFFFFFFFFFFF : Command).extractLsb' 56 8 = 0x52 ∧
    (0x5300000000000000 : Command).extractLsb' 56 8 = 0x53 ∧ (0x5455123456789ABC : Command).extractLsb' 56 8 = 0x54 := by
  decide

/-- An invalid frame, the four kinds of control frame, a bypass frame and a sequence-controlled one. -/
theorem witness_ProcessFrameHasTheThirteenOutcomes_frames :
    ¬ValidFor (mem [0x10]) mcf ∧ ValidFor (mem [0x30, 0, 0, 0, 0, 0]) mcf ∧ ValidFor (mem setVr5) mcf ∧
    ValidFor (mem [0x30, 0, 0, 0, 0, 1]) mcf ∧ ValidFor (mem [0x20]) mcf ∧ ValidFor (farmState 10).tcbuf mcf := by
  refine ⟨?_, ?_, ?_, ?_, ?_, ?_⟩ <;> unfold ValidFor <;> decide

/-- The frames' paths, and deltas 0, 1, 62, 63, 192, 193 and 255 against V(R) = 10 (R163, R170). -/
theorem witness_ProcessFrameHasTheThirteenOutcomes :
    (bypassBit (mem [0x30, 0, 0, 0, 0, 0]) = 1 ∧ ctlBit (mem [0x30, 0, 0, 0, 0, 0]) = 1 ∧
      oct (mem [0x30, 0, 0, 0, 0, 0]) 5 = 0) ∧
    (bypassBit (mem setVr5) = 1 ∧ ctlBit (mem setVr5) = 1 ∧ oct (mem setVr5) 5 = 0x82 ∧ oct (mem setVr5) 6 = 0 ∧
      Clcw.reset.lockout = false ∧ (lockedOut setVr5).clcw.lockout = true) ∧
    (oct (mem [0x30, 0, 0, 0, 0, 1]) 5 ≠ 0 ∧ oct (mem [0x30, 0, 0, 0, 0, 1]) 5 ≠ 0x82) ∧
    (bypassBit (mem [0x20]) = 1 ∧ ctlBit (mem [0x20]) = 0) ∧
    (bypassBit (farmState 10).tcbuf = 0 ∧ (farmState 10).clcw.lockout = false) ∧
    seqDelta (farmState 10) = 0 ∧ seqDelta (farmState 11) = 1 ∧ seqDelta (farmState 72) = 62 ∧
    seqDelta (farmState 73) = 63 ∧ seqDelta (farmState 202) = 192 ∧ seqDelta (farmState 203) = 193 ∧
    seqDelta (farmState 9) = 255 := by decide

/-- The tail block. -/
def tail8 : List Octet := [0xC5, 0xC5, 0xC5, 0xC5, 0xC5, 0xC5, 0xC5, 0x79]

/-- Two data blocks before the tail, and none. -/
theorem witness_TcSyncExtractsTheFrame :
    ((26#16).toNat ≤ cltuRand.params.cltuCap ∧ oct cltuRand.cltu 0 = 0xEB ∧ oct cltuRand.cltu 1 = 0x90 ∧
      10 + 8 * 2 ≤ (26#16).toNat ∧ cltuRand.cltu.readBytes (2 + 8 * 2) 8 = tail8 ∧
      (∀ j < 2, cltuRand.cltu.readBytes (2 + 8 * j) 8 ≠ tail8) ∧ 7 * 2 ≤ cltuRand.params.tcbufCap) ∧
    ((10#16).toNat ≤ State.reset.params.cltuCap ∧ 10 + 8 * 0 ≤ (10#16).toNat ∧
      (withCltu ([0xEB, 0x90] ++ tail8)).cltu.readBytes (2 + 8 * 0) 8 = tail8) := by decide

/-- A length one beyond the buffer; one octet, and a wrong start; no tail before the end; one block more than `TCBUF`
holds, in zero octets after the start sequence. -/
theorem witness_TcSyncErrors : State.reset.params.cltuCap < (1187#16).toNat ∧
    (1#16).toNat < 2 ∧ oct State.reset.cltu 0 ≠ 0xEB ∧
    ((18#16).toNat ≤ (withCltu [0xEB, 0x90]).params.cltuCap ∧ oct (withCltu [0xEB, 0x90]).cltu 0 = 0xEB ∧
      oct (withCltu [0xEB, 0x90]).cltu 1 = 0x90 ∧
      (∀ j < 2, (withCltu [0xEB, 0x90]).cltu.readBytes (2 + 8 * j) 8 ≠ tail8) ∧
      7 * (((18#16).toNat - 2) / 8) ≤ (withCltu [0xEB, 0x90]).params.tcbufCap) ∧
    ((1186#16).toNat ≤ (withCltu [0xEB, 0x90]).params.cltuCap ∧
      10 + 8 * ((withCltu [0xEB, 0x90]).params.tcbufCap / 7) ≤ (1186#16).toNat ∧
      ((List.range 148).all fun j => (withCltu [0xEB, 0x90]).cltu.readBytes (2 + 8 * j) 8 != tail8) = true) := by
  decide

/-- The smallest and the largest marker and frame. -/
theorem witness_TmSyncBuildsTheCadu : State.reset.chans[(0#8).toNat]? = some (Channel.reset defaults) ∧
    ((4#16).toNat % 2 = 0 ∧ 4 ≤ (4#16).toNat ∧ (4#16).toNat ≤ defaults.asmCap ∧ 1 ≤ (1#16).toNat ∧
      (1#16).toNat ≤ defaults.frameCap) ∧
    ((8#16).toNat % 2 = 0 ∧ (8#16).toNat ≤ defaults.asmCap ∧ (2048#16).toNat ≤ defaults.frameCap) := by decide

theorem witness_TmSyncErrors : State.reset.chans[(0#8).toNat]? = some (Channel.reset defaults) ∧ (5#16).toNat % 2 = 1 ∧
    (2#16).toNat < 4 ∧ State.reset.params.asmCap < (10#16).toNat ∧ (0#16).toNat = 0 ∧
    State.reset.params.frameCap < (2049#16).toNat := by decide

/-- The smallest frame, and the largest with everything (C47.17, C47.18). -/
theorem witness_InitChannelWritesTheContext : State.reset.chans[(0#8).toNat]? = some (Channel.reset defaults) ∧
    (let g : ChannelConfig := { frameLen := 7, scid := 0, fecf := false, vcid := 0, ocf := false, sechdr := false,
                                sechdrLen := 0, vca := false, isVc := false }
     g.sechdr = false ∧ g.sechdrLen = 0 ∧ g.frameLen.toNat ≤ defaults.frameCap ∧
       hdrOctets g + trailOctets g + 1 ≤ g.frameLen.toNat) ∧
    (let g : ChannelConfig := { frameLen := 2048, scid := 1023, fecf := true, vcid := 7, ocf := true, sechdr := true,
                                sechdrLen := 63, vca := true, isVc := true }
     g.sechdr = true ∧ g.sechdrLen ≠ 0 ∧ g.frameLen.toNat ≤ defaults.frameCap ∧
       hdrOctets g + trailOctets g + 1 ≤ g.frameLen.toNat) := by decide

/-- Each failing check: the secondary header both ways, one octet too long, one too short. -/
theorem witness_InitChannelErrors : State.reset.chans[(0#8).toNat]? = some (Channel.reset defaults) ∧
    (let g : ChannelConfig := { cfgVca with sechdr := true }; g.sechdr = true ∧ g.sechdrLen = 0) ∧
    (let g : ChannelConfig := { cfgVca with sechdrLen := 2 }; g.sechdr = false ∧ g.sechdrLen ≠ 0) ∧
    (let g : ChannelConfig := { cfgVca with frameLen := 2049 }
     g.sechdr = false ∧ g.sechdrLen = 0 ∧ defaults.frameCap < g.frameLen.toNat) ∧
    (let g : ChannelConfig := { cfgVca with frameLen := 6 }
     g.sechdr = false ∧ g.sechdrLen = 0 ∧ g.frameLen.toNat < hdrOctets g + trailOctets g + 1) := by decide

/-- The channel of C47.29 after a packet of 12 octets and one of 3, and its frame closed: a mid-packet fragment and a whole
packet in the ring. -/
def chPackets : Channel :=
  ((({ initialisedChannel defaults { cfgVca with vca := false } with isReady := true } : Channel).addUnit defaults
    (mem octetsVca) 12 true).addUnit defaults (mem octetsVca) 3 true).complete 1 0

/-- The same with frames of 8 octets, 2 of them data: the whole packet starts beyond the next frame. -/
def chNarrow : Channel :=
  ((({ initialisedChannel defaults { cfgVca with vca := false, frameLen := 8 } with isReady := true } : Channel).addUnit
    defaults (mem octetsVca) 4 true).addUnit defaults (mem octetsVca) 3 true).complete 1 0

/-- A packet start at offset 2 of the next frame; none in the ring; one exactly at the end of the next frame; the pointer
already set. -/
theorem witness_StartFrameRefillsFromTheRing :
    ((withChan chPackets).Ok = true ∧ chPackets.isInit = true ∧ chPackets.fhpSet = false ∧
      firstPacketStart chPackets.seg = some 2 ∧ 2 < chPackets.free.toNat) ∧
    ((withChan chClosed).Ok = true ∧ chClosed.isInit = true ∧ firstPacketStart chClosed.seg = none) ∧
    ((withChan chNarrow).Ok = true ∧ chNarrow.isInit = true ∧ firstPacketStart chNarrow.seg = some 2 ∧
      chNarrow.free.toNat ≤ 2) ∧
    ((withChan (chVca.addUnit defaults (mem octetsVca) 1 true)).Ok = true ∧
      (chVca.addUnit defaults (mem octetsVca) 1 true).fhpSet = true) := by decide

/-- Each add command with one octet, with exactly the free octets, with as many as the ring takes besides, into a full
frame, and with the pointer already set. -/
theorem witness_AddCommandsPlaceAndSpill : AddCommand (.sdlpAddPacket 0 1) 0 1 true ∧
    AddCommand (.sdlpAddIdlePacket 0 10) 0 10 true ∧ AddCommand (.sdlpAddVcaData 0 4096) 0 4096 false ∧
    ((withChan chVca).Ok = true ∧ chVca.isReady = true ∧ chVca.free.toNat = 10 ∧ chVca.fhpSet = false ∧
      (4096#16).toNat ≤ defaults.inbufCap ∧ 4096 - min 4096 chVca.free.toNat ≤ chVca.ovfFree.toNat) ∧
    ((withChan chFull).Ok = true ∧ chFull.isReady = true ∧ chFull.free.toNat = 0 ∧
      4094 - min 4094 chFull.free.toNat ≤ chFull.ovfFree.toNat) ∧
    (chVca.addUnit defaults (mem octetsVca) 1 true).fhpSet = true := by unfold AddCommand; decide

/-- Channels with and without the OCF and the error-control field. -/
def chTrailers : Channel := initialisedChannel defaults { cfgVca with ocf := true, fecf := true }

theorem witness_CompleteFrameClosesTheFrame :
    ((withChan chFull).Ok = true ∧ chFull.isInit = true ∧ chFull.ocfFlag = false ∧ chFull.fecfFlag = false) ∧
    ((withChan chTrailers).Ok = true ∧ chTrailers.isInit = true ∧ chTrailers.ocfFlag = true ∧
      chTrailers.fecfFlag = true) := by decide

/-- A channel whose ring has one octet free. -/
def chRingFull : Channel := { chFull with ovfFree := 1 }

theorem witness_SdlpStateErrors : (Channel.reset defaults).isInit = false ∧ AddCommand (.sdlpAddPacket 0 4) 0 4 true ∧
    (chTrailers.isInit = true ∧ chTrailers.ocfFlag = true) ∧ chTrailers.isReady = false ∧
    (chFull.isInit = true ∧ chFull.isReady = true ∧ defaults.inbufCap < (4097#16).toNat) ∧
    (chRingFull.isInit = true ∧ chRingFull.isReady = true ∧ 1 ≤ (2#16).toNat ∧ (2#16).toNat ≤ defaults.inbufCap ∧
      chRingFull.ovfFree.toNat < (2#16).toNat - min (2#16).toNat chRingFull.free.toNat) := by
  unfold AddCommand; decide

theorem witness_GetStatusReturnsTheSelectedValue : (withChan chFull).chans[(0#8).toNat]? = some chFull ∧
    (∃ g r, chFull.seg = g :: r ∧ g.cont = true) ∧ chVca.seg = [] ∧ 13 < (14#16).toNat :=
  ⟨rfl, ⟨_, _, rfl, by decide⟩, rfl, by decide⟩

/-- A successful add, start and completion on sound states. -/
theorem witness_PacketStreamIsConserved :
    ((withChan chVca).Ok = true ∧ AddCommand (.sdlpAddVcaData 0 12) 0 12 false ∧
      nextSat (exec (.sdlpAddVcaData 0 12) (withChan chVca)) (fun t => t.status == 0) = true) ∧
    ((withChan chClosed).Ok = true ∧ nextSat (exec (.sdlpStartFrame 0) (withChan chClosed)) (fun t => t.status == 0) = true) ∧
    ((withChan chFull).Ok = true ∧
      nextSat (exec (.sdlpCompleteFrame 0 false 0) (withChan chFull)) (fun t => t.status == 0) = true) := by
  unfold AddCommand; decide

end Sys2Proof.Tests
end

section
/-! SUPPORT. The frame of a whole command (00_scope.md R5, 30_encoding.md R53): the capacities, the number of channels and
the host's pending inputs are kept by every update that commands are made of, and every command that completes does so
with a response. -/

namespace Sys2Proof.Machine

/-! ### What no command changes -/

/-- The state `u` has the capacities, the pending inputs and the number of channels of `s` (logs 1, 2). -/
structure State.SameSetup (s u : State) : Prop where
  params : u.params = s.params
  hostIn : u.hostIn = s.hostIn
  chans_length : u.chans.length = s.chans.length

theorem State.SameSetup.refl (s : State) : s.SameSetup s := ⟨rfl, rfl, rfl⟩

theorem State.SameSetup.trans {s u w : State} (h : s.SameSetup u) (h' : u.SameSetup w) : s.SameSetup w :=
  ⟨h'.params.trans h.params, h'.hostIn.trans h.hostIn, h'.chans_length.trans h.chans_length⟩

theorem State.sameSetup_setChannel (s : State) (ch : BitVec 8) (c : Channel) : s.SameSetup (s.setChannel ch c) :=
  ⟨rfl, rfl, List.length_set⟩

theorem State.sameSetup_setFrame (s : State) (ch : BitVec 8) (c : Channel) (f : Memory) :
    s.SameSetup (s.setFrame ch c f) :=
  s.sameSetup_setChannel ch _

theorem State.sameSetup_respond (s : State) (st : Status) (v : Word) : s.SameSetup (s.respond st v) := ⟨rfl, rfl, rfl⟩

theorem State.sameSetup_setClcw (s : State) (c : Clcw) : s.SameSetup (s.setClcw c) := ⟨rfl, rfl, rfl⟩

theorem State.sameSetup_setMcfc (s : State) (v : BitVec 8) : s.SameSetup (s.setMcfc v) := ⟨rfl, rfl, rfl⟩

theorem State.sameSetup_copyPayload (s : State) (d : ServiceDescriptor) : s.SameSetup (s.copyPayload d) :=
  ⟨rfl, rfl, rfl⟩

theorem State.sameSetup_commitTcFrame (s : State) (bs : List Octet) : s.SameSetup (s.commitTcFrame bs) :=
  ⟨rfl, rfl, rfl⟩

theorem State.sameSetup_setCadu (s : State) (bs : List Octet) : s.SameSetup (s.setCadu bs) := ⟨rfl, rfl, rfl⟩

@[simp] theorem State.length_chans_setSpaceBuffer (s : State) (ch : BitVec 8) (m : Memory) (sp : Space) :
    (s.setSpaceBuffer ch m sp).chans.length = s.chans.length := by
  cases sp with
  | frm => exact List.length_modify ..
  | cltu | tcbuf | paybuf | inbuf | asmbuf | cadu => rfl

theorem State.sameSetup_setSpaceBuffer (s : State) (ch : BitVec 8) (m : Memory) (sp : Space) :
    s.SameSetup (s.setSpaceBuffer ch m sp) :=
  ⟨s.setSpaceBuffer_params ch m sp, s.setSpaceBuffer_hostIn ch m sp, s.length_chans_setSpaceBuffer ch m sp⟩

/-! ### How a command completes -/

/-- The state `t` presents a response on a state with the setup of `s` (30_encoding.md R52, R53). -/
def State.RespondsTo (s t : State) : Prop :=
  ∃ u st v, s.SameSetup u ∧ t = State.respond u st v

theorem State.SameSetup.respondsTo {s u : State} (h : s.SameSetup u) (st : Status) (v : Word) :
    s.RespondsTo (u.respond st v) := ⟨u, st, v, h, rfl⟩

theorem State.respondsTo_respond (s : State) (st : Status) (v : Word) : s.RespondsTo (s.respond st v) :=
  (State.SameSetup.refl s).respondsTo st v

theorem State.RespondsTo.sameSetup {s t : State} (h : s.RespondsTo t) : s.SameSetup t := by
  obtain ⟨u, st, v, hu, rfl⟩ := h
  exact hu.trans (u.sameSetup_respond st v)

theorem State.RespondsTo.rspValid {s t : State} (h : s.RespondsTo t) : t.rspValid = true := by
  obtain ⟨u, st, v, -, rfl⟩ := h
  rfl

theorem done_respondsTo {s t : State} {v : Word} (h : done s v = .next t) : s.RespondsTo t := by
  rw [(done_next _ _ _).1 h]
  exact s.respondsTo_respond _ _

theorem State.SameSetup.trans_respondsTo {s u t : State} (h : s.SameSetup u) (ht : u.RespondsTo t) : s.RespondsTo t := by
  obtain ⟨w, st, v, hw, rfl⟩ := ht
  exact (h.trans hw).respondsTo st v

/-! ### The commands, by the operation they are made of -/

theorem tmGet_respondsTo {s t : State} {ch : BitVec 8} {value : Memory → Word} (h : tmGet ch value s = .next t) :
    s.RespondsTo t := by
  rcases tmGet_next h with rfl | ⟨c, -, rfl⟩ <;> exact s.respondsTo_respond _ _

theorem tmSet_respondsTo {s t : State} {ch : BitVec 8} {put : Memory → Memory} (h : tmSet ch put s = .next t) :
    s.RespondsTo t := by
  rcases tmSet_next h with rfl | ⟨c, -, rfl⟩
  · exact s.respondsTo_respond _ _
  · exact (s.sameSetup_setFrame ch c _).respondsTo _ _

theorem execBufRd_respondsTo {s t : State} {ch : BitVec 8} {space addr : Half}
    (h : execBufRd ch space addr s = .next t) : s.RespondsTo t := by
  rcases execBufRd_next h with rfl | ⟨sp, m, -, -, -, rfl⟩ <;> exact s.respondsTo_respond _ _

theorem execBufWr_respondsTo {s t : State} {ch : BitVec 8} {space addr : Half} {v : Octet}
    (h : execBufWr ch space addr v s = .next t) : s.RespondsTo t := by
  rcases execBufWr_next h with rfl | ⟨sp, m, -, -, -, -, rfl⟩
  · exact s.respondsTo_respond _ _
  · exact (s.sameSetup_setSpaceBuffer ch _ sp).respondsTo _ _

theorem execTmSetSechdrLen_respondsTo {s t : State} {ch : BitVec 8} {len : Half}
    (h : execTmSetSechdrLen ch len s = .next t) : s.RespondsTo t := by
  rcases execTmSetSechdrLen_next h with ⟨st, -, rfl⟩ | ⟨c, -, -, -, -, rfl⟩
  · exact s.respondsTo_respond _ _
  · exact (s.sameSetup_setFrame ch c _).respondsTo _ _

theorem execTmSetSechdrData_respondsTo {s t : State} {ch : BitVec 8} {len : Half}
    (h : execTmSetSechdrData ch len s = .next t) : s.RespondsTo t := by
  rcases execTmSetSechdrData_next h with ⟨st, -, rfl⟩ | ⟨c, -, -, -, -, rfl⟩
  · exact s.respondsTo_respond _ _
  · exact (s.sameSetup_setFrame ch c _).respondsTo _ _

theorem execTmSetOcf_respondsTo {s t : State} {ch : BitVec 8} {off : Half} {d : Word}
    (h : execTmSetOcf ch off d s = .next t) : s.RespondsTo t := by
  rcases execTmSetOcf_next h with ⟨st, -, rfl⟩ | ⟨c, -, -, -, rfl⟩
  · exact s.respondsTo_respond _ _
  · exact (s.sameSetup_setFrame ch c _).respondsTo _ _

theorem execTmUpdateFecf_respondsTo {s t : State} {ch : BitVec 8} {off : Half}
    (h : execTmUpdateFecf ch off s = .next t) : s.RespondsTo t := by
  rcases execTmUpdateFecf_next h with ⟨st, -, rfl⟩ | ⟨c, -, -, -, rfl⟩
  · exact s.respondsTo_respond _ _
  · exact (s.sameSetup_setFrame ch c _).respondsTo _ _

theorem processControl_respondsTo {s t : State} (h : processControl s = .next t) : s.RespondsTo t := by
  rcases processControl_next h with ⟨-, rfl⟩ | ⟨-, -, -, rfl⟩ | ⟨-, -, -, rfl⟩ | rfl
  · exact (s.sameSetup_setClcw _).respondsTo _ _
  · exact (s.sameSetup_setClcw _).respondsTo _ _
  · exact (s.sameSetup_setClcw _).respondsTo _ _
  · exact s.respondsTo_respond _ _

theorem processBypassData_respondsTo {s t : State} {a : Bool} {d : ServiceDescriptor}
    (h : processBypassData a d s = .next t) : s.RespondsTo t := by
  rcases processBypassData_next h with ⟨-, rfl⟩ | ⟨-, rfl⟩
  · exact ((s.sameSetup_setClcw _).trans (State.sameSetup_copyPayload _ d)).respondsTo _ _
  · exact (s.sameSetup_setClcw _).respondsTo _ _

theorem processSequenced_respondsTo {s t : State} {a : Bool} {d : ServiceDescriptor}
    (h : processSequenced a d s = .next t) : s.RespondsTo t := by
  rcases processSequenced_next h with
    ⟨-, rfl⟩ | ⟨-, ⟨-, -, rfl⟩ | ⟨-, -, rfl⟩ | ⟨-, rfl⟩ | ⟨-, rfl⟩ | ⟨-, rfl⟩⟩
  · exact s.respondsTo_respond _ _
  · exact ((s.sameSetup_setClcw _).trans (State.sameSetup_copyPayload _ d)).respondsTo _ _
  · exact (s.sameSetup_setClcw _).respondsTo _ _
  · exact (s.sameSetup_setClcw _).respondsTo _ _
  · exact s.respondsTo_respond _ _
  · exact (s.sameSetup_setClcw _).respondsTo _ _

theorem execCop1ProcessFrame_respondsTo {s t : State} {a : Bool} {d : ServiceDescriptor}
    (h : execCop1ProcessFrame a d s = .next t) : s.RespondsTo t := by
  rcases execCop1ProcessFrame_next h with ⟨-, rfl⟩ | ⟨-, ⟨-, -, h⟩ | ⟨-, -, h⟩ | ⟨-, h⟩⟩
  · exact s.respondsTo_respond _ _
  · exact processControl_respondsTo h
  · exact processBypassData_respondsTo h
  · exact processSequenced_respondsTo h

theorem execTcSyncGetFrame_respondsTo {s t : State} {n : Half} {r : Bool}
    (h : execTcSyncGetFrame n r s = .next t) : s.RespondsTo t := by
  rcases execTcSyncGetFrame_next h with ⟨st, -, rfl⟩ | ⟨f, -, -, rfl⟩
  · exact s.respondsTo_respond _ _
  · exact (s.sameSetup_commitTcFrame _).respondsTo _ _

theorem execTmSyncSynchronize_respondsTo {s t : State} {ch : BitVec 8} {al fl : Half} {r : Bool}
    (h : execTmSyncSynchronize ch al fl r s = .next t) : s.RespondsTo t := by
  rcases execTmSyncSynchronize_next h with ⟨st, -, rfl⟩ | ⟨c, -, -, -, rfl⟩
  · exact s.respondsTo_respond _ _
  · exact (s.sameSetup_setCadu _).respondsTo _ _

theorem execSdlpInitChannel_respondsTo {s t : State} {ch : BitVec 8} {g : ChannelConfig}
    (h : execSdlpInitChannel ch g s = .next t) : s.RespondsTo t := by
  rcases execSdlpInitChannel_next h with rfl | ⟨st, -, rfl⟩ | ⟨-, rfl⟩
  · exact s.respondsTo_respond _ _
  · exact s.respondsTo_respond _ _
  · exact (s.sameSetup_setChannel ch _).respondsTo _ _

theorem execSdlpStartFrame_respondsTo {s t : State} {ch : BitVec 8} (h : execSdlpStartFrame ch s = .next t) :
    s.RespondsTo t := by
  rcases execSdlpStartFrame_next h with ⟨st, -, rfl⟩ | ⟨c, c', -, -, -, rfl⟩
  · exact s.respondsTo_respond _ _
  · exact (s.sameSetup_setChannel ch c').respondsTo _ _

theorem addData_respondsTo {s t : State} {ch : BitVec 8} {len : Half} {k : Bool} (h : addData ch len k s = .next t) :
    s.RespondsTo t := by
  rcases addData_next h with ⟨st, -, rfl⟩ | ⟨c, -, -, -, -, -, -, -, rfl⟩
  · exact s.respondsTo_respond _ _
  · exact (s.sameSetup_setChannel ch _).respondsTo _ _

theorem execSdlpCompleteFrame_respondsTo {s t : State} {ch : BitVec 8} {p : Bool} {d : Word}
    (h : execSdlpCompleteFrame ch p d s = .next t) : s.RespondsTo t := by
  rcases execSdlpCompleteFrame_next h with ⟨st, -, rfl⟩ | ⟨c, -, -, -, -, rfl⟩
  · exact s.respondsTo_respond _ _
  · exact ((s.sameSetup_setMcfc _).trans (State.sameSetup_setChannel _ ch _)).respondsTo _ _

theorem execSdlpGetStatus_respondsTo {s t : State} {ch : BitVec 8} {sel : Half}
    (h : execSdlpGetStatus ch sel s = .next t) : s.RespondsTo t := by
  rcases execSdlpGetStatus_next h with rfl | ⟨c, v, -, -, rfl⟩ <;> exact s.respondsTo_respond _ _

/-- Every command that completes answers, on a state with the setup it found. -/
theorem exec_respondsTo {i : Instr} {s t : State} (h : exec i s = .next t) : s.RespondsTo t := by
  unfold exec at h
  cases i with
  | bufRd => exact execBufRd_respondsTo h
  | bufWr => exact execBufWr_respondsTo h
  | tcGetVersion | tcGetBypass | tcGetCtlcmd | tcGetScid | tcGetVcid | tcGetLength | tcGetSeq | tcGetSegFlags
  | tcGetMapid | tcGetPayloadLen | tcIsValid | clcwGetCopEffect | clcwGetVcid | clcwRd => exact done_respondsTo h
  | tcCopyPayload d => exact (s.sameSetup_copyPayload d).trans_respondsTo (done_respondsTo h)
  | tmGetVersion | tmGetScid | tmGetVcid | tmGetOcfFlag | tmGetMcCount | tmGetVcCount | tmGetSechdrFlag | tmGetSyncFlag
  | tmGetPktOrderFlag | tmGetSegLenId | tmGetFhp | tmGetSechdrLen | tmGetGvcid | tmGetMcid => exact tmGet_respondsTo h
  | tmSetVersion | tmSetScid | tmSetVcid | tmSetOcfFlag | tmSetMcCount | tmSetVcCount | tmSetSechdrFlag | tmSetSyncFlag
  | tmSetPktOrderFlag | tmSetSegLenId | tmSetFhp => exact tmSet_respondsTo h
  | tmSetSechdrLen => exact execTmSetSechdrLen_respondsTo h
  | tmSetSechdrData => exact execTmSetSechdrData_respondsTo h
  | tmSetOcf => exact execTmSetOcf_respondsTo h
  | tmUpdateFecf => exact execTmUpdateFecf_respondsTo h
  | cop1InitClcw vcid => exact (s.sameSetup_setClcw _).trans_respondsTo (done_respondsTo h)
  | cop1ProcessFrame => exact execCop1ProcessFrame_respondsTo h
  | tcSyncGetFrame => exact execTcSyncGetFrame_respondsTo h
  | tmSyncSynchronize => exact execTmSyncSynchronize_respondsTo h
  | sdlpInitChannel => exact execSdlpInitChannel_respondsTo h
  | sdlpStartFrame => exact execSdlpStartFrame_respondsTo h
  | sdlpAddPacket | sdlpAddIdlePacket | sdlpAddVcaData => exact addData_respondsTo h
  | sdlpCompleteFrame => exact execSdlpCompleteFrame_respondsTo h
  | sdlpGetStatus => exact execSdlpGetStatus_respondsTo h

/-- Settles O16: a response leaves the setup of the state it is given on, and every command ends with one. -/
theorem execKeepsInputsAndCapacities : Obligations.ExecKeepsInputsAndCapacities := by
  intro i s t h
  have answered := exec_respondsTo h
  obtain ⟨params, hostIn, chans_length⟩ := answered.sameSetup
  exact ⟨params, hostIn, chans_length, answered.rspValid⟩

end Sys2Proof.Machine
end

section
/-! SUPPORT. The state after reset is sound (10_state.md R27, R31), for all capacities and channel counts of 00_scope.md
R5. -/

namespace Sys2Proof.Machine

theorem Memory.ok_mono {m : Memory} {cap cap' : Nat} (h : m.ok cap = true) (hc : cap ≤ cap') : m.ok cap' = true := by
  simp only [Memory.ok, Memory.within, Bool.and_eq_true, List.all_eq_true, decide_eq_true_eq] at h ⊢
  exact ⟨h.1, fun c hm => Nat.lt_of_lt_of_le (h.2 c hm) hc⟩

/-- The default sync marker is four octets, which every marker buffer holds (R5, R18). -/
theorem Memory.ok_asmbufReset {cap : Nat} (h : 4 ≤ cap) : asmbufReset.ok cap = true :=
  Memory.ok_mono (by decide : asmbufReset.ok 4 = true) h

/-- The ring of a channel after reset is all free: `OVF_CAP` fits the 17 bits of `ovf_free` (R25). -/
theorem Channel.toNat_ovfFree_reset {p : Params} (h : p.wellFormed = true) :
    (Channel.reset p).ovfFree.toNat = p.ovfCap := by
  obtain ⟨-, -, -, ovfCap_le, -⟩ := Params.bounds h
  simp only [Channel.reset, BitVec.toNat_ofNat]
  omega

theorem Channel.ovfCount_reset {p : Params} (h : p.wellFormed = true) : (Channel.reset p).ovfCount p = 0 := by
  rw [Channel.ovfCount, Channel.toNat_ovfFree_reset h, Nat.sub_self]

theorem Channel.ringOk_reset {p : Params} (h : p.wellFormed = true) : (Channel.reset p).ringOk p = true := by
  obtain ⟨-, -, one_le_ovfCap, -⟩ := Params.bounds h
  have head : (Channel.reset p).ovfHead.toNat < p.ovfCap := one_le_ovfCap
  rw [Channel.ringOk, Channel.ovfCount_reset h, Channel.toNat_ovfFree_reset h, decide_eq_true head,
    decide_eq_true (Nat.le_refl _)]
  rfl

theorem Channel.pristine_reset (p : Params) : (Channel.reset p).pristine p = true := beq_self_eq_true _

/-- A channel context after reset meets the invariants of R27: it is uninitialised, so the cursor and cycle rules ask
nothing of it. -/
theorem Channel.ok_reset {p : Params} (h : p.wellFormed = true) : (Channel.reset p).ok p = true := by
  have mem : (Channel.reset p).memOk p = true := rfl
  have cursor : (Channel.reset p).cursorOk p = true := rfl
  have cycle : (Channel.reset p).cycleOk p = true := rfl
  rw [Channel.ok, mem, cursor, Channel.ringOk_reset h, cycle, Channel.pristine_reset]
  rfl

theorem State.buffersOk_resetOf {p : Params} (h : p.wellFormed = true) (n : Nat) :
    (State.resetOf p n).buffersOk = true := by
  obtain ⟨-, -, -, -, -, -, -, -, -, -, four_le_asmCap, -⟩ := Params.bounds h
  simp only [State.buffersOk, State.resetOf, Memory.ok_nil, Memory.ok_asmbufReset four_le_asmCap, Bool.and_self]

theorem State.paramsOk_resetOf {p : Params} {n : Nat} (h : p.wellFormed = true)
    (hn : Config.channelCountOk n = true) : (State.resetOf p n).paramsOk = true := by
  have params : (State.resetOf p n).params.wellFormed = true := h
  have count : (State.resetOf p n).nTmChan = n := List.length_replicate
  rw [State.paramsOk, params, count, hn, Bool.and_self]

theorem State.chansOk_resetOf {p : Params} (h : p.wellFormed = true) (n : Nat) :
    (State.resetOf p n).chans.all (fun c => c.ok p) = true := by
  refine List.all_eq_true.2 fun c hc => ?_
  rw [List.eq_of_mem_replicate hc]
  exact Channel.ok_reset h

/-- The state after reset is sound for the capacities and channel counts of R5. -/
theorem State.ok_resetOf {p : Params} {n : Nat} (h : p.wellFormed = true) (hn : Config.channelCountOk n = true) :
    (State.resetOf p n).Ok = true := by
  have clcw : (State.resetOf p n).clcw.ok = true := rfl
  have response : (State.resetOf p n).responseOk = true := rfl
  have params : (State.resetOf p n).params = p := rfl
  rw [State.Ok, State.paramsOk_resetOf h hn, State.buffersOk_resetOf h, params, State.chansOk_resetOf h, clcw, response]
  rfl

/-- Settles O10: the general case, of which the machine's own reset state is the one with the defaults of R5. -/
theorem resetStateIsSound : Obligations.ResetStateIsSound :=
  have defaults_wellFormed : Config.defaultParams.wellFormed = true := by decide
  have defaults_channels : Config.channelCountOk Config.defaultChannels = true := by decide
  ⟨State.ok_resetOf defaults_wellFormed defaults_channels, fun _ _ => State.ok_resetOf⟩

end Sys2Proof.Machine
end

section
/-! SUPPORT. What a whole command can do (10_state.md R12 to R26): every command that completes has one of a few effects on
the state and answers. The rules of what each command may write, and the invariants of a step, are read off the effects. -/

namespace Sys2Proof.Machine

open Claims (AddCommand WritesChannel)

/-! ### The CLCW's constant fields -/

@[simp] theorem Clcw.ok_initialised (vcid : BitVec 6) : (Clcw.initialised vcid).ok = true := rfl
@[simp] theorem Clcw.ok_countFarmB (c : Clcw) : c.countFarmB.ok = c.ok := rfl
@[simp] theorem Clcw.ok_unlock (c : Clcw) : c.unlock.ok = c.ok := rfl
@[simp] theorem Clcw.ok_setVr (c : Clcw) (vr : BitVec 8) : (c.setVr vr).ok = c.ok := rfl
@[simp] theorem Clcw.ok_accept (c : Clcw) : c.accept.ok = c.ok := rfl
@[simp] theorem Clcw.ok_backpressure (c : Clcw) : c.backpressure.ok = c.ok := rfl
@[simp] theorem Clcw.ok_requestRetransmit (c : Clcw) : c.requestRetransmit.ok = c.ok := rfl
@[simp] theorem Clcw.ok_lockOut (c : Clcw) : c.lockOut.ok = c.ok := rfl

/-! ### The effects of commands -/

/-- The command `i` takes state `s` to a state `u`, its response aside, and answers with status `st`. -/
inductive Effect (s : State) : Instr → State → Status → Prop where
  /-- A read, or an error without a write (60_exceptions.md R249). -/
  | keeps (i : Instr) (st : Status) : Effect s i s st
  /-- BUF_WR (R76). -/
  | space {ch : BitVec 8} {id addr : Half} {v : Octet} {sp : Space} {m : Memory} (hw : spaceHostWritable sp = true)
      (hm : s.spaceBuffer ch sp = some m) (ha : addr.toNat < spaceSize s.params sp) :
      Effect s (.bufWr ch id addr v) (s.setSpaceBuffer ch (m.write addr.toNat v) sp) .ok
  /-- TC_COPY_PAYLOAD (R107). -/
  | payload (d : ServiceDescriptor) : Effect s (.tcCopyPayload d) (s.copyPayload d) .ok
  /-- The TM setters and helpers (R131 to R145). -/
  | frame {i : Instr} {c : Channel} {f : Memory} (hop : 0x40 ≤ i.opcode.toNat ∧ i.opcode.toNat ≤ 0x4E)
      (hc : s.chans[i.fieldCh.toNat]? = some c)
      (hf : 70 ≤ s.params.frameCap → c.frm.ok s.params.frameCap = true → f.ok s.params.frameCap = true) :
      Effect s i (s.setFrame i.fieldCh c f) .ok
  /-- COP1_INIT_CLCW (R156). -/
  | initClcw (vcid : BitVec 6) : Effect s (.cop1InitClcw vcid) (s.setClcw (Clcw.initialised vcid)) .ok
  /-- COP1_PROCESS_FRAME, with the CLCW flags and counters it moves (R158). -/
  | farm {c : Clcw} (a : Bool) (d : ServiceDescriptor) (st : Status) (hc : c.ok = s.clcw.ok) :
      Effect s (.cop1ProcessFrame a d) (s.setClcw c) st
  /-- COP1_PROCESS_FRAME on a frame whose payload it delivers (R165, R168). -/
  | deliver {c : Clcw} (a : Bool) (d : ServiceDescriptor) (hc : c.ok = s.clcw.ok) :
      Effect s (.cop1ProcessFrame a d) ((s.setClcw c).copyPayload d) .ok
  /-- TC_SYNC_GET_FRAME (R187). -/
  | extract {bs : List Octet} (n : Half) (r : Bool) (hb : bs.length ≤ s.params.tcbufCap) :
      Effect s (.tcSyncGetFrame n r) (s.commitTcFrame bs) .ok
  /-- TM_SYNC_SYNCHRONIZE (R196). -/
  | cadu {bs : List Octet} (ch : BitVec 8) (al fl : Half) (r : Bool) (hb : bs.length ≤ s.params.caduCap) :
      Effect s (.tmSyncSynchronize ch al fl r) (s.setCadu bs) .ok
  /-- SDLP_INIT_CHANNEL (R207). -/
  | init {g : ChannelConfig} (ch : BitVec 8) (hg : initCheck s.params g = none) :
      Effect s (.sdlpInitChannel ch g) (s.setChannel ch (initialisedChannel s.params g)) .ok
  /-- SDLP_START_FRAME (R209). -/
  | start {ch : BitVec 8} {c c' : Channel} (hc : s.chans[ch.toNat]? = some c) (hi : c.isInit = true)
      (hr : Channel.refill s.params c.seg { c with isReady := true } = .ok c') :
      Effect s (.sdlpStartFrame ch) (s.setChannel ch c') .ok
  /-- The three add commands (R212 to R215). -/
  | add {i : Instr} {ch : BitVec 8} {len : Half} {k : Bool} {c : Channel} (hadd : AddCommand i ch len k)
      (hc : s.chans[ch.toNat]? = some c) (hi : c.isInit = true) (hr : c.isReady = true) (h1 : 1 ≤ len.toNat)
      (ho : len.toNat - min len.toNat c.free.toNat ≤ c.ovfFree.toNat)
      (hn : c.cur.toNat + min len.toNat c.free.toNat ≤ s.params.frameCap) :
      Effect s i (s.setChannel ch (c.addUnit s.params s.inbuf len.toNat k)) .ok
  /-- SDLP_COMPLETE_FRAME (R222). -/
  | complete {ch : BitVec 8} {c : Channel} (p : Bool) (d : Word) (hc : s.chans[ch.toNat]? = some c)
      (hi : c.isInit = true) (ht : c.trailersFit s.params = true) :
      Effect s (.sdlpCompleteFrame ch p d)
        ((s.setMcfc (s.mcfc + 1)).setChannel ch (c.complete (s.mcfc + 1) d)) .ok

/-- The command `i` completes in `t`: one of its effects on `s`, and a response whose value is 0 with every error
(60_exceptions.md R248). -/
def Completes (i : Instr) (s t : State) : Prop :=
  ∃ u st v, Effect s i u st ∧ (st = .ok ∨ v = 0) ∧ t = State.respond u st v

theorem Effect.completes {i : Instr} {s u : State} (h : Effect s i u .ok) (v : Word) :
    Completes i s (u.respond .ok v) := ⟨u, .ok, v, h, .inl rfl, rfl⟩

theorem Effect.completes_zero {i : Instr} {s u : State} {st : Status} (h : Effect s i u st) :
    Completes i s (u.respond st 0) := ⟨u, st, 0, h, .inr rfl, rfl⟩

theorem completes_error (i : Instr) (s : State) (st : Status) : Completes i s (s.respond st 0) :=
  (Effect.keeps i st).completes_zero

theorem completes_value (i : Instr) (s : State) (v : Word) : Completes i s (s.respond .ok v) :=
  (Effect.keeps i .ok).completes v

/-! ### The commands, by the operation they are made of -/

section
variable {i : Instr} {s t : State} {ch : BitVec 8}

theorem done_completes {v : Word} (h : done s v = .next t) : Completes i s t := by
  rw [(done_next _ _ _).1 h]
  exact completes_value i s v

theorem tmGet_completes {value : Memory → Word} (h : tmGet ch value s = .next t) : Completes i s t := by
  rcases tmGet_next h with rfl | ⟨c, -, rfl⟩
  · exact completes_error i s _
  · exact completes_value i s _

/-- A field setter whose operation part keeps the bounds of a frame buffer, which is at least 70 octets (R5). -/
theorem tmSet_completes {put : Memory → Memory} (hop : 0x40 ≤ i.opcode.toNat ∧ i.opcode.toNat ≤ 0x4E)
    (hput : ∀ {f : Memory} {cap : Nat}, 70 ≤ cap → f.ok cap = true → (put f).ok cap = true)
    (h : tmSet i.fieldCh put s = .next t) : Completes i s t := by
  rcases tmSet_next h with rfl | ⟨c, hc, rfl⟩
  · exact completes_error i s _
  · exact (Effect.frame hop hc hput).completes_zero

theorem execBufRd_completes {space addr : Half} (h : execBufRd ch space addr s = .next t) : Completes i s t := by
  rcases execBufRd_next h with rfl | ⟨sp, m, -, -, -, rfl⟩
  · exact completes_error i s _
  · exact completes_value i s _

theorem execBufWr_completes {space addr : Half} {v : Octet} (h : execBufWr ch space addr v s = .next t) :
    Completes (.bufWr ch space addr v) s t := by
  rcases execBufWr_next h with rfl | ⟨sp, m, -, hw, hm, ha, rfl⟩
  · exact completes_error _ s _
  · exact (Effect.space hw hm ha).completes_zero

theorem execTmSetSechdrLen_completes {len : Half} (h : execTmSetSechdrLen ch len s = .next t) :
    Completes (.tmSetSechdrLen ch len) s t := by
  rcases execTmSetSechdrLen_next h with ⟨st, -, rfl⟩ | ⟨c, hc, -, -, -, rfl⟩
  · exact completes_error _ s st
  · have fits (hcap : 70 ≤ s.params.frameCap) (hf : c.frm.ok s.params.frameCap = true) :
        (tmSetSechdrLen c.frm (len.setWidth 6)).ok s.params.frameCap = true := Memory.ok_write hf (by omega) _
    exact (Effect.frame (by simp [Instr.opcode]) hc fits).completes_zero

/-- The data of a secondary header lies in the first 70 octets of the frame: its stored length has six bits (R143). -/
theorem execTmSetSechdrData_completes {len : Half} (h : execTmSetSechdrData ch len s = .next t) :
    Completes (.tmSetSechdrData ch len) s t := by
  rcases execTmSetSechdrData_next h with ⟨st, -, rfl⟩ | ⟨c, hc, -, -, hlen, rfl⟩
  · exact completes_error _ s st
  · have stored := (tmSechdrLen c.frm).isLt
    have fits (hcap : 70 ≤ s.params.frameCap) (hf : c.frm.ok s.params.frameCap = true) :
        (tmSetSechdrData c.frm (s.inbuf.readBytes 0 len.toNat)).ok s.params.frameCap = true :=
      Memory.ok_writeBytes hf (by rw [Memory.length_readBytes]; omega)
    exact (Effect.frame (by simp [Instr.opcode]) hc fits).completes_zero

theorem execTmSetOcf_completes {off : Half} {d : Word} (h : execTmSetOcf ch off d s = .next t) :
    Completes (.tmSetOcf ch off d) s t := by
  rcases execTmSetOcf_next h with ⟨st, -, rfl⟩ | ⟨c, hc, -, hoff, rfl⟩
  · exact completes_error _ s st
  · exact (Effect.frame (by simp [Instr.opcode]) hc fun _ hf => Memory.ok_tmSetOcf hf hoff d).completes_zero

theorem execTmUpdateFecf_completes {off : Half} (h : execTmUpdateFecf ch off s = .next t) :
    Completes (.tmUpdateFecf ch off) s t := by
  rcases execTmUpdateFecf_next h with ⟨st, -, rfl⟩ | ⟨c, hc, -, hoff, rfl⟩
  · exact completes_error _ s st
  · exact (Effect.frame (by simp [Instr.opcode]) hc fun _ hf => Memory.ok_updateCrc hf hoff).completes_zero

theorem processControl_completes {a : Bool} {d : ServiceDescriptor} (h : processControl s = .next t) :
    Completes (.cop1ProcessFrame a d) s t := by
  rcases processControl_next h with ⟨-, rfl⟩ | ⟨-, -, -, rfl⟩ | ⟨-, -, -, rfl⟩ | rfl
  · exact (Effect.farm a d .ok s.clcw.ok_unlock).completes_zero
  · exact (Effect.farm a d .farm1Violation s.clcw.ok_countFarmB).completes_zero
  · exact (Effect.farm a d .ok (s.clcw.ok_setVr _)).completes_zero
  · exact completes_error _ s _

theorem processBypassData_completes {a : Bool} {d : ServiceDescriptor} (h : processBypassData a d s = .next t) :
    Completes (.cop1ProcessFrame a d) s t := by
  rcases processBypassData_next h with ⟨-, rfl⟩ | ⟨-, rfl⟩
  · exact (Effect.deliver a d s.clcw.ok_countFarmB).completes _
  · exact (Effect.farm a d .ok s.clcw.ok_countFarmB).completes_zero

theorem processSequenced_completes {a : Bool} {d : ServiceDescriptor} (h : processSequenced a d s = .next t) :
    Completes (.cop1ProcessFrame a d) s t := by
  rcases processSequenced_next h with
    ⟨-, rfl⟩ | ⟨-, ⟨-, -, rfl⟩ | ⟨-, -, rfl⟩ | ⟨-, rfl⟩ | ⟨-, rfl⟩ | ⟨-, rfl⟩⟩
  · exact completes_error _ s _
  · exact (Effect.deliver a d s.clcw.ok_accept).completes _
  · exact (Effect.farm a d .invalidArgument s.clcw.ok_backpressure).completes_zero
  · exact (Effect.farm a d .farm1Violation s.clcw.ok_requestRetransmit).completes_zero
  · exact completes_error _ s _
  · exact (Effect.farm a d .farm1Violation s.clcw.ok_lockOut).completes_zero

theorem execCop1ProcessFrame_completes {a : Bool} {d : ServiceDescriptor}
    (h : execCop1ProcessFrame a d s = .next t) : Completes (.cop1ProcessFrame a d) s t := by
  rcases execCop1ProcessFrame_next h with ⟨-, rfl⟩ | ⟨-, ⟨-, -, h⟩ | ⟨-, -, h⟩ | ⟨-, h⟩⟩
  · exact completes_error _ s _
  · exact processControl_completes h
  · exact processBypassData_completes h
  · exact processSequenced_completes h

theorem execTcSyncGetFrame_completes {n : Half} {r : Bool} (h : execTcSyncGetFrame n r s = .next t) :
    Completes (.tcSyncGetFrame n r) s t := by
  rcases execTcSyncGetFrame_next h with ⟨st, -, rfl⟩ | ⟨f, -, hf, rfl⟩
  · exact completes_error _ s st
  · have fits : (tcFrameOctets r f).length ≤ s.params.tcbufCap := by
      rw [length_tcFrameOctets]
      exact extractFrame_length hf (Nat.zero_le _)
    exact (Effect.extract n r fits).completes _

theorem execTmSyncSynchronize_completes {al fl : Half} {r : Bool}
    (h : execTmSyncSynchronize ch al fl r s = .next t) : Completes (.tmSyncSynchronize ch al fl r) s t := by
  rcases execTmSyncSynchronize_next h with ⟨st, -, rfl⟩ | ⟨c, -, hal, hfl, rfl⟩
  · exact completes_error _ s st
  · have fits : (caduOctets s.asmbuf c.frm al.toNat fl.toNat r).length ≤ s.params.caduCap := by
      rw [length_caduOctets]
      exact Nat.add_le_add hal hfl
    exact (Effect.cadu ch al fl r fits).completes _

theorem execSdlpInitChannel_completes {g : ChannelConfig} (h : execSdlpInitChannel ch g s = .next t) :
    Completes (.sdlpInitChannel ch g) s t := by
  rcases execSdlpInitChannel_next h with rfl | ⟨st, -, rfl⟩ | ⟨hg, rfl⟩
  · exact completes_error _ s _
  · exact completes_error _ s st
  · exact (Effect.init ch hg).completes_zero

theorem execSdlpStartFrame_completes (h : execSdlpStartFrame ch s = .next t) :
    Completes (.sdlpStartFrame ch) s t := by
  rcases execSdlpStartFrame_next h with ⟨st, -, rfl⟩ | ⟨c, c', hc, hi, hr, rfl⟩
  · exact completes_error _ s st
  · exact (Effect.start hc hi hr).completes_zero

theorem addData_completes {len : Half} {k : Bool} (hadd : AddCommand i ch len k) (h : addData ch len k s = .next t) :
    Completes i s t := by
  rcases addData_next h with ⟨st, -, rfl⟩ | ⟨c, hc, hi, hr, h1, -, ho, hn, rfl⟩
  · exact completes_error _ s st
  · exact (Effect.add hadd hc hi hr h1 ho hn).completes _

theorem execSdlpCompleteFrame_completes {p : Bool} {d : Word} (h : execSdlpCompleteFrame ch p d s = .next t) :
    Completes (.sdlpCompleteFrame ch p d) s t := by
  rcases execSdlpCompleteFrame_next h with ⟨st, -, rfl⟩ | ⟨c, hc, hi, -, ht, rfl⟩
  · exact completes_error _ s st
  · exact (Effect.complete p d hc hi ht).completes _

theorem execSdlpGetStatus_completes {sel : Half} (h : execSdlpGetStatus ch sel s = .next t) : Completes i s t := by
  rcases execSdlpGetStatus_next h with rfl | ⟨c, v, -, -, rfl⟩
  · exact completes_error _ s _
  · exact completes_value _ s v

/-- Every command that completes has one of the effects above. -/
theorem exec_completes (h : exec i s = .next t) : Completes i s t := by
  unfold exec at h
  cases i with
  | bufRd => exact execBufRd_completes h
  | bufWr => exact execBufWr_completes h
  | tcGetVersion | tcGetBypass | tcGetCtlcmd | tcGetScid | tcGetVcid | tcGetLength | tcGetSeq | tcGetSegFlags
  | tcGetMapid | tcGetPayloadLen | tcIsValid | clcwGetCopEffect | clcwGetVcid | clcwRd => exact done_completes h
  | tcCopyPayload d =>
    rw [(done_next _ _ _).1 h]
    exact (Effect.payload d).completes _
  | tmGetVersion | tmGetScid | tmGetVcid | tmGetOcfFlag | tmGetMcCount | tmGetVcCount | tmGetSechdrFlag | tmGetSyncFlag
  | tmGetPktOrderFlag | tmGetSegLenId | tmGetFhp | tmGetSechdrLen | tmGetGvcid | tmGetMcid => exact tmGet_completes h
  | tmSetVersion | tmSetVcid | tmSetOcfFlag | tmSetMcCount | tmSetVcCount | tmSetSechdrFlag | tmSetSyncFlag
  | tmSetPktOrderFlag | tmSetSegLenId =>
    exact tmSet_completes (by simp [Instr.opcode]) (fun hcap hf => Memory.ok_write hf (by omega) _) h
  | tmSetScid | tmSetFhp =>
    exact tmSet_completes (by simp [Instr.opcode])
      (fun hcap hf => Memory.ok_write (Memory.ok_write hf (by omega) _) (by omega) _) h
  | tmSetSechdrLen => exact execTmSetSechdrLen_completes h
  | tmSetSechdrData => exact execTmSetSechdrData_completes h
  | tmSetOcf => exact execTmSetOcf_completes h
  | tmUpdateFecf => exact execTmUpdateFecf_completes h
  | cop1InitClcw vcid =>
    rw [(done_next _ _ _).1 h]
    exact (Effect.initClcw vcid).completes _
  | cop1ProcessFrame => exact execCop1ProcessFrame_completes h
  | tcSyncGetFrame => exact execTcSyncGetFrame_completes h
  | tmSyncSynchronize => exact execTmSyncSynchronize_completes h
  | sdlpInitChannel => exact execSdlpInitChannel_completes h
  | sdlpStartFrame => exact execSdlpStartFrame_completes h
  | sdlpAddPacket => exact addData_completes (.inl ⟨rfl, rfl⟩) h
  | sdlpAddIdlePacket => exact addData_completes (.inr (.inl ⟨rfl, rfl⟩)) h
  | sdlpAddVcaData => exact addData_completes (.inr (.inr ⟨rfl, rfl⟩)) h
  | sdlpCompleteFrame => exact execSdlpCompleteFrame_completes h
  | sdlpGetStatus => exact execSdlpGetStatus_completes h

end

end Sys2Proof.Machine
end

section
/-! SUPPORT. The invariants of a step (10_state.md R27): what each effect of a command keeps, and that a sound state has a
sound next state for every input. -/

namespace Sys2Proof.Machine

open Claims (AddCommand)

/-! ### The step -/

/-- A step idles, resets, rejects a reserved opcode, or executes a command (20_memory.md R41). -/
theorem step_next {s t : State} (h : step s = .next t) :
    t = s.idle ∨ (∃ rest, t = (s.withHostIn rest).resetPulse) ∨
      (∃ rest, t = (s.withHostIn rest).respond .illegalOp 0) ∨ ∃ i rest, exec i (s.withHostIn rest) = .next t := by
  unfold step at h
  split at h
  · cases h; exact .inl rfl
  · rename_i rest _; cases h; exact .inr (.inl ⟨rest, rfl⟩)
  · rename_i rest _
    split at h
    · exact .inr (.inr (.inr ⟨_, rest, h⟩))
    · exact .inr (.inr (.inl ⟨rest, (raise_next _ _ _).1 h⟩))

/-! ### The parts of a sound state -/

theorem State.ok_iff (s : State) : s.Ok = true ↔ s.paramsOk = true ∧ s.buffersOk = true ∧
    (∀ c ∈ s.chans, c.ok s.params = true) ∧ s.clcw.ok = true ∧ s.responseOk = true := by
  simp only [State.Ok, Bool.and_eq_true, List.all_eq_true, and_assoc]

theorem State.buffersOk_iff (s : State) : s.buffersOk = true ↔
    s.cltu.ok s.params.cltuCap = true ∧ s.tcbuf.ok s.params.tcbufCap = true ∧ s.paybuf.ok Params.paybufCap = true ∧
      s.inbuf.ok s.params.inbufCap = true ∧ s.asmbuf.ok s.params.asmCap = true ∧ s.cadu.ok s.params.caduCap = true := by
  simp only [State.buffersOk, Bool.and_eq_true, and_assoc]

theorem State.wellFormed_of_paramsOk {s : State} (h : s.paramsOk = true) : s.params.wellFormed = true := by
  simp only [State.paramsOk, Bool.and_eq_true] at h
  exact h.1

/-- The capacities stay within R5 where neither they nor the number of channels change. -/
theorem State.SameSetup.paramsOk {s u : State} (h : s.SameSetup u) (hs : s.paramsOk = true) : u.paramsOk = true := by
  obtain ⟨params, -, chans_length⟩ := h
  rwa [State.paramsOk, State.nTmChan, params, chans_length]

/-- Every response a command gives is legal: its status has a code of R246, and its value is 0 with an error (R248). -/
theorem State.responseOk_respond (s : State) {st : Status} {v : Word} (h : st = .ok ∨ v = 0) :
    (s.respond st v).responseOk = true := by
  have code_le : (statusCode st).toNat ≤ 0x0C := by cases st <;> decide
  have value : (statusCode st == 0 || v == 0) = true := by
    rcases h with rfl | rfl
    · rfl
    · exact Bool.or_true _
  exact Bool.and_eq_true_iff.2 ⟨decide_eq_true code_le, value⟩

/-! ### What the effects of commands keep -/

/-- The payload of a TC frame fits `PAYBUF`: the frame has at most 1024 octets, five of them its header (R5, R106). -/
theorem tcPayloadLen_le (h : Memory) (d : ServiceDescriptor) : tcPayloadLen h d ≤ Params.paybufCap := by
  have field := (tcLengthField h).isLt
  have header : 5 ≤ tcOverhead d := by unfold tcOverhead tcPayloadOffset; omega
  unfold tcPayloadLen tcLength Params.paybufCap
  split <;> omega

@[simp] theorem length_tcPayload (h : Memory) (d : ServiceDescriptor) : (tcPayload h d).length = tcPayloadLen h d :=
  Memory.length_readBytes ..

theorem State.buffersOk_copyPayload {s : State} (h : s.buffersOk = true) (d : ServiceDescriptor) :
    (s.copyPayload d).buffersOk = true := by
  rw [State.buffersOk_iff] at h ⊢
  obtain ⟨cltu, tcbuf, paybuf, inbuf, asmbuf, cadu⟩ := h
  have fits : 0 + (tcPayload s.tcbuf d).length ≤ Params.paybufCap := by
    rw [length_tcPayload, Nat.zero_add]
    exact tcPayloadLen_le s.tcbuf d
  exact ⟨cltu, tcbuf, Memory.ok_writeBytes paybuf fits, inbuf, asmbuf, cadu⟩

theorem State.buffersOk_commitTcFrame {s : State} (h : s.buffersOk = true) {bs : List Octet}
    (hb : bs.length ≤ s.params.tcbufCap) : (s.commitTcFrame bs).buffersOk = true := by
  rw [State.buffersOk_iff] at h ⊢
  obtain ⟨cltu, tcbuf, paybuf, inbuf, asmbuf, cadu⟩ := h
  exact ⟨cltu, Memory.ok_writeBytes tcbuf (by rwa [Nat.zero_add]), paybuf, inbuf, asmbuf, cadu⟩

theorem State.buffersOk_setCadu {s : State} (h : s.buffersOk = true) {bs : List Octet}
    (hb : bs.length ≤ s.params.caduCap) : (s.setCadu bs).buffersOk = true := by
  rw [State.buffersOk_iff] at h ⊢
  obtain ⟨cltu, tcbuf, paybuf, inbuf, asmbuf, cadu⟩ := h
  exact ⟨cltu, tcbuf, paybuf, inbuf, asmbuf, Memory.ok_writeBytes cadu (by rwa [Nat.zero_add])⟩

/-- An octet stored below the size of a space stays within the space's capacity (20_memory.md R36). -/
theorem State.buffersOk_setSpaceBuffer {s : State} (h : s.buffersOk = true) {ch : BitVec 8} {sp : Space} {m : Memory}
    (hm : s.spaceBuffer ch sp = some m) {a : Nat} (ha : a < spaceSize s.params sp) (v : Octet) :
    (s.setSpaceBuffer ch (m.write a v) sp).buffersOk = true := by
  rw [State.buffersOk_iff] at h ⊢
  obtain ⟨cltu, tcbuf, paybuf, inbuf, asmbuf, cadu⟩ := h
  cases sp with
  | cltu => cases hm; exact ⟨Memory.ok_write cltu ha v, tcbuf, paybuf, inbuf, asmbuf, cadu⟩
  | tcbuf => cases hm; exact ⟨cltu, Memory.ok_write tcbuf ha v, paybuf, inbuf, asmbuf, cadu⟩
  | paybuf => cases hm; exact ⟨cltu, tcbuf, Memory.ok_write paybuf ha v, inbuf, asmbuf, cadu⟩
  | inbuf => cases hm; exact ⟨cltu, tcbuf, paybuf, Memory.ok_write inbuf ha v, asmbuf, cadu⟩
  | asmbuf => cases hm; exact ⟨cltu, tcbuf, paybuf, inbuf, Memory.ok_write asmbuf ha v, cadu⟩
  | cadu => cases hm; exact ⟨cltu, tcbuf, paybuf, inbuf, asmbuf, Memory.ok_write cadu ha v⟩
  | frm => exact ⟨cltu, tcbuf, paybuf, inbuf, asmbuf, cadu⟩

theorem Channel.ok_frm {p : Params} {c : Channel} (h : c.ok p = true) : c.frm.ok p.frameCap = true := by
  simp only [Channel.ok, Channel.memOk, Bool.and_eq_true] at h
  obtain ⟨⟨⟨⟨⟨frm, -⟩, -⟩, -⟩, -⟩, -⟩ := h
  exact frm

theorem State.chansOk_setChannel {s : State} {p : Params} (h : ∀ c ∈ s.chans, c.ok p = true) (ch : BitVec 8)
    {c : Channel} (hc : c.ok p = true) : ∀ c' ∈ (s.setChannel ch c).chans, c'.ok p = true := by
  intro c' hmem
  rcases List.mem_or_eq_of_mem_set hmem with hmem | rfl
  · exact h c' hmem
  · exact hc

/-- Space 6 is the frame buffer of a channel: storing an octet there is a setter's write. -/
theorem State.setSpaceBuffer_frm {s : State} {ch : BitVec 8} {c : Channel} (hc : s.chans[ch.toNat]? = some c)
    (m : Memory) : s.setSpaceBuffer ch m .frm = s.setFrame ch c m := by
  simp only [State.setSpaceBuffer, State.setFrame, State.setChannel, List.modify_eq_set_getElem?, hc]
  rfl

theorem State.spaceBuffer_frm {s : State} {ch : BitVec 8} {m : Memory} (h : s.spaceBuffer ch .frm = some m) :
    ∃ c, s.chans[ch.toNat]? = some c ∧ c.frm = m := Option.map_eq_some_iff.1 h

theorem State.chansOk_setSpaceBuffer {s : State} (h : ∀ c ∈ s.chans, c.ok s.params = true) {ch : BitVec 8} {sp : Space}
    {m : Memory} (hm : s.spaceBuffer ch sp = some m) {a : Nat} (ha : a < spaceSize s.params sp) (v : Octet) :
    ∀ c ∈ (s.setSpaceBuffer ch (m.write a v) sp).chans, c.ok s.params = true := by
  cases sp with
  | frm =>
    obtain ⟨c, hc, rfl⟩ := State.spaceBuffer_frm hm
    have ok := h c (List.mem_of_getElem? hc)
    rw [State.setSpaceBuffer_frm hc]
    exact State.chansOk_setChannel h ch (Channel.ok_setFrm ok (Memory.ok_write (Channel.ok_frm ok) ha v))
  | cltu | tcbuf | paybuf | inbuf | asmbuf | cadu => exact h

/-- SDLP_START_FRAME on an initialised channel: the refill ends, in a context that meets R27 (R209, R210). -/
theorem Channel.ok_start {p : Params} {c : Channel} (hp : p.wellFormed = true) (h : c.ok p = true)
    (hi : c.isInit = true) : ∃ c', Channel.refill p c.seg { c with isReady := true } = .ok c' ∧ c'.ok p = true := by
  obtain ⟨mem, layout, free, cur, ovfFree, ovfHead, sum, positive, whole, -⟩ := (Channel.ok_iff_of_init hi).1 h
  have closed : ({ c with isReady := false } : Channel).ok p = true :=
    (Channel.ok_iff_of_init (by exact hi)).2
      ⟨mem, layout, free, cur, ovfFree, ovfHead, sum, positive, whole, fun not_ready => nomatch not_ready⟩
  obtain ⟨c', refilled, ok, -, -⟩ := Channel.ok_refill hp (c := { c with isReady := true }) hi closed
  exact ⟨c', refilled, ok⟩

namespace Effect

variable {i : Instr} {s u : State} {st : Status}

theorem buffersOk (h : Effect s i u st) (hs : s.buffersOk = true) : u.buffersOk = true := by
  cases h with
  | space hw hm ha => exact State.buffersOk_setSpaceBuffer hs hm ha _
  | payload d => exact State.buffersOk_copyPayload hs d
  | deliver a d hc =>
    have unchanged : (s.setClcw _).buffersOk = true := hs
    exact State.buffersOk_copyPayload unchanged d
  | extract n r hb => exact State.buffersOk_commitTcFrame hs hb
  | cadu ch al fl r hb => exact State.buffersOk_setCadu hs hb
  | keeps | frame | initClcw | farm | init | start | add | complete => exact hs

theorem clcwOk (h : Effect s i u st) (hs : s.clcw.ok = true) : u.clcw.ok = true := by
  cases h with
  | space => rwa [State.setSpaceBuffer_clcw]
  | initClcw vcid => exact Clcw.ok_initialised vcid
  | farm a d st hc | deliver a d hc => exact hc.trans hs
  | keeps | payload | frame | extract | cadu | init | start | add | complete => exact hs

/-- Every effect keeps the invariants of R27 for every channel. -/
theorem chansOk (h : Effect s i u st) (hp : s.params.wellFormed = true) (hs : ∀ c ∈ s.chans, c.ok s.params = true) :
    ∀ c ∈ u.chans, c.ok s.params = true := by
  obtain ⟨frameCap_ge, -⟩ := Params.bounds hp
  cases h with
  | space hw hm ha => exact State.chansOk_setSpaceBuffer hs hm ha _
  | frame hop hc hf =>
    have ok := hs _ (List.mem_of_getElem? hc)
    exact State.chansOk_setChannel hs _ (Channel.ok_setFrm ok (hf frameCap_ge (Channel.ok_frm ok)))
  | init ch hg => exact State.chansOk_setChannel hs ch (Channel.ok_initialisedChannel hp hg)
  | start hc hi hr =>
    obtain ⟨c', refilled, ok⟩ := Channel.ok_start hp (hs _ (List.mem_of_getElem? hc)) hi
    cases hr.symm.trans refilled
    exact State.chansOk_setChannel hs _ ok
  | @add _ _ len k _ hadd hc hi hr h1 ho hn =>
    have ok := hs _ (List.mem_of_getElem? hc)
    have len_le : len.toNat ≤ 65535 := Nat.le_of_lt_succ len.isLt
    exact State.chansOk_setChannel hs _ (Channel.ok_addUnit hp ok hi hr s.inbuf k h1 len_le ho)
  | complete p d hc hi ht =>
    have ok := hs _ (List.mem_of_getElem? hc)
    exact State.chansOk_setChannel (s := s.setMcfc _) hs _ (Channel.ok_complete hp ok hi _ d)
  | keeps | payload | initClcw | farm | deliver | extract | cadu => exact hs

end Effect

/-! ### Soundness is kept -/

/-- A command keeps a sound state sound. -/
theorem exec_ok {i : Instr} {s t : State} (hs : s.Ok = true) (h : exec i s = .next t) : t.Ok = true := by
  obtain ⟨params, buffers, chans, clcw, -⟩ := (State.ok_iff s).1 hs
  have setup := (exec_respondsTo h).sameSetup
  obtain ⟨u, st, v, effect, value, rfl⟩ := exec_completes h
  have chans' : ∀ c ∈ u.chans, c.ok u.params = true := by
    rw [show u.params = s.params from setup.params]
    exact effect.chansOk (State.wellFormed_of_paramsOk params) chans
  exact (State.ok_iff _).2
    ⟨setup.paramsOk params, effect.buffersOk buffers, chans', effect.clcwOk clcw, u.responseOk_respond value⟩

theorem State.ok_resetPulse {s : State} (h : s.paramsOk = true) : s.resetPulse.Ok = true := by
  simp only [State.paramsOk, Bool.and_eq_true] at h
  exact State.ok_resetOf h.1 h.2

theorem State.ok_respond {s : State} (h : s.Ok = true) {st : Status} {v : Word} (hv : st = .ok ∨ v = 0) :
    (s.respond st v).Ok = true := by
  obtain ⟨params, buffers, chans, clcw, -⟩ := (State.ok_iff s).1 h
  exact (State.ok_iff _).2 ⟨params, buffers, chans, clcw, s.responseOk_respond hv⟩

/-- What the host presents next has no part in soundness (log 2). -/
theorem State.ok_withHostIn {s : State} (h : s.Ok = true) (rest : List HostEvent) : (s.withHostIn rest).Ok = true := h

/-- Settles O11, by the branches of the step: the invariant is kept by every effect a command can have. -/
theorem everyStepKeepsSoundness : Obligations.EveryStepKeepsSoundness := by
  intro s t hs h
  rcases step_next h with rfl | ⟨rest, rfl⟩ | ⟨rest, rfl⟩ | ⟨i, rest, h⟩
  · exact hs
  · obtain ⟨params, -⟩ := (State.ok_iff s).1 hs
    exact State.ok_resetPulse (s := s.withHostIn rest) params
  · exact State.ok_respond (State.ok_withHostIn hs rest) (.inr rfl)
  · exact exec_ok (State.ok_withHostIn hs rest) h

theorem State.clcwOk_resetPulse (s : State) : s.resetPulse.clcw.ok = true := rfl

/-- Settles O14: FARM-1 moves only the flags and counters of the CLCW, and initialisation and reset set its constant
fields. -/
theorem everyStepKeepsClcwConstantFields : Obligations.EveryStepKeepsClcwConstantFields := by
  intro s t hs h
  rcases step_next h with rfl | ⟨rest, rfl⟩ | ⟨rest, rfl⟩ | ⟨i, rest, h⟩
  · exact hs
  · exact State.clcwOk_resetPulse _
  · exact hs
  · obtain ⟨u, st, v, effect, -, rfl⟩ := exec_completes h
    exact effect.clcwOk hs

/-! ### No sound state stops -/

section
variable (s : State) (ch : BitVec 8)

theorem done_answers (v : Word) : ∃ t, done s v = .next t := ⟨_, rfl⟩

theorem withChannel_answers {k : Channel → Result} (hk : ∀ c, s.chans[ch.toNat]? = some c → ∃ t, k c = .next t) :
    ∃ t, withChannel s ch k = .next t := by
  cases hc : s.chans[ch.toNat]? with
  | none => exact ⟨_, withChannel_of_none hc k⟩
  | some c => rw [withChannel_of_some hc]; exact hk c hc

theorem tmGet_answers (value : Memory → Word) : ∃ t, tmGet ch value s = .next t :=
  withChannel_answers s ch fun _ _ => done_answers s _

theorem tmSet_answers (put : Memory → Memory) : ∃ t, tmSet ch put s = .next t :=
  withChannel_answers s ch fun _ _ => done_answers _ _

theorem execBufRd_answers (space addr : Half) : ∃ t, execBufRd ch space addr s = .next t := by
  unfold execBufRd
  repeat' split
  all_goals exact ⟨_, rfl⟩

theorem execBufWr_answers (space addr : Half) (v : Octet) : ∃ t, execBufWr ch space addr v s = .next t := by
  unfold execBufWr
  repeat' split
  all_goals exact ⟨_, rfl⟩

theorem execTmSetSechdrLen_answers (len : Half) : ∃ t, execTmSetSechdrLen ch len s = .next t := by
  refine withChannel_answers s ch fun c _ => ?_
  repeat' split
  all_goals exact ⟨_, rfl⟩

theorem execTmSetSechdrData_answers (len : Half) : ∃ t, execTmSetSechdrData ch len s = .next t := by
  refine withChannel_answers s ch fun c _ => ?_
  repeat' split
  all_goals exact ⟨_, rfl⟩

theorem execTmSetOcf_answers (off : Half) (d : Word) : ∃ t, execTmSetOcf ch off d s = .next t := by
  refine withChannel_answers s ch fun c _ => ?_
  repeat' split
  all_goals exact ⟨_, rfl⟩

theorem execTmUpdateFecf_answers (off : Half) : ∃ t, execTmUpdateFecf ch off s = .next t := by
  refine withChannel_answers s ch fun c _ => ?_
  split
  all_goals exact ⟨_, rfl⟩

theorem processControl_answers : ∃ t, processControl s = .next t := by
  unfold processControl
  repeat' split
  all_goals exact ⟨_, rfl⟩

theorem processBypassData_answers (a : Bool) (d : ServiceDescriptor) : ∃ t, processBypassData a d s = .next t := by
  unfold processBypassData
  split
  all_goals exact ⟨_, rfl⟩

theorem processSequenced_answers (a : Bool) (d : ServiceDescriptor) : ∃ t, processSequenced a d s = .next t := by
  unfold processSequenced
  repeat' split
  all_goals exact ⟨_, rfl⟩

theorem execCop1ProcessFrame_answers (a : Bool) (d : ServiceDescriptor) :
    ∃ t, execCop1ProcessFrame a d s = .next t := by
  unfold execCop1ProcessFrame
  repeat' split
  · exact ⟨_, rfl⟩
  · exact processControl_answers s
  · exact processBypassData_answers s a d
  · exact processSequenced_answers s a d

theorem execTcSyncGetFrame_answers (n : Half) (r : Bool) : ∃ t, execTcSyncGetFrame n r s = .next t := by
  unfold execTcSyncGetFrame
  repeat' split
  all_goals exact ⟨_, rfl⟩

theorem execTmSyncSynchronize_answers (al fl : Half) (r : Bool) :
    ∃ t, execTmSyncSynchronize ch al fl r s = .next t := by
  refine withChannel_answers s ch fun c _ => ?_
  repeat' split
  all_goals exact ⟨_, rfl⟩

theorem execSdlpInitChannel_answers (g : ChannelConfig) : ∃ t, execSdlpInitChannel ch g s = .next t := by
  refine withChannel_answers s ch fun c _ => ?_
  split
  all_goals exact ⟨_, rfl⟩

theorem execSdlpGetStatus_answers (sel : Half) : ∃ t, execSdlpGetStatus ch sel s = .next t := by
  refine withChannel_answers s ch fun c _ => ?_
  split
  all_goals exact ⟨_, rfl⟩

end

/-- What `min(len, free)` octets at the cursor of a sound channel leave lies in its frame buffer: the cursor and the free
octets end with the data field (R27 a, R206). -/
theorem Channel.overruns_eq_false {p : Params} {c : Channel} (h : c.ok p = true) (hi : c.isInit = true) (len : Nat) :
    c.overruns p (min len c.free.toNat) = false := by
  obtain ⟨-, layout, free, cur, -⟩ := (Channel.ok_iff_of_init hi).1 h
  obtain ⟨-, -, data_end, frameLen, -⟩ := Channel.layout_bounds layout
  rw [Channel.overruns, decide_eq_false_iff_not]
  omega

theorem Channel.trailersFit_of_ok {p : Params} {c : Channel} (h : c.ok p = true) (hi : c.isInit = true) :
    c.trailersFit p = true := by
  obtain ⟨-, layout, -⟩ := (Channel.ok_iff_of_init hi).1 h
  exact Channel.trailersFit_of_layout layout

section
variable {s : State} (hs : ∀ c ∈ s.chans, c.ok s.params = true) (ch : BitVec 8)
include hs

theorem execSdlpStartFrame_answers (hp : s.params.wellFormed = true) : ∃ t, execSdlpStartFrame ch s = .next t := by
  refine withChannel_answers s ch fun c hc => ?_
  split
  · exact ⟨_, rfl⟩
  · rename_i initialised
    obtain ⟨c', refilled, -⟩ := Channel.ok_start hp (hs c (List.mem_of_getElem? hc)) (by simpa using initialised)
    rw [refilled]
    exact done_answers _ _

theorem addData_answers (len : Half) (k : Bool) : ∃ t, addData ch len k s = .next t := by
  refine withChannel_answers s ch fun c hc => ?_
  cases hi : c.isInit
  · exact ⟨_, rfl⟩
  · rw [Channel.overruns_eq_false (hs c (List.mem_of_getElem? hc)) hi, if_neg Bool.false_ne_true]
    repeat' split
    all_goals exact ⟨_, rfl⟩

theorem execSdlpCompleteFrame_answers (b : Bool) (d : Word) : ∃ t, execSdlpCompleteFrame ch b d s = .next t := by
  refine withChannel_answers s ch fun c hc => ?_
  cases hi : c.isInit
  · exact ⟨_, rfl⟩
  · rw [Channel.trailersFit_of_ok (hs c (List.mem_of_getElem? hc)) hi]
    repeat' split
    all_goals exact ⟨_, rfl⟩

end

/-- In a sound state every command has an answer: what the two faults guard against is excluded by R27 (log 7). -/
theorem exec_answers {s : State} (h : s.Ok = true) (i : Instr) : ∃ t, exec i s = .next t := by
  obtain ⟨params, -, hs, -⟩ := (State.ok_iff s).1 h
  have hp := State.wellFormed_of_paramsOk params
  unfold exec
  cases i with
  | bufRd ch space addr => exact execBufRd_answers s ch space addr
  | bufWr ch space addr v => exact execBufWr_answers s ch space addr v
  | tcGetVersion | tcGetBypass | tcGetCtlcmd | tcGetScid | tcGetVcid | tcGetLength | tcGetSeq | tcGetSegFlags
  | tcGetMapid | tcGetPayloadLen | tcCopyPayload | tcIsValid | cop1InitClcw | clcwGetCopEffect | clcwGetVcid
  | clcwRd => exact done_answers _ _
  | tmGetVersion | tmGetScid | tmGetVcid | tmGetOcfFlag | tmGetMcCount | tmGetVcCount | tmGetSechdrFlag | tmGetSyncFlag
  | tmGetPktOrderFlag | tmGetSegLenId | tmGetFhp | tmGetSechdrLen | tmGetGvcid | tmGetMcid => exact tmGet_answers s _ _
  | tmSetVersion | tmSetScid | tmSetVcid | tmSetOcfFlag | tmSetMcCount | tmSetVcCount | tmSetSechdrFlag | tmSetSyncFlag
  | tmSetPktOrderFlag | tmSetSegLenId | tmSetFhp => exact tmSet_answers s _ _
  | tmSetSechdrLen ch len => exact execTmSetSechdrLen_answers s ch len
  | tmSetSechdrData ch len => exact execTmSetSechdrData_answers s ch len
  | tmSetOcf ch off d => exact execTmSetOcf_answers s ch off d
  | tmUpdateFecf ch off => exact execTmUpdateFecf_answers s ch off
  | cop1ProcessFrame a d => exact execCop1ProcessFrame_answers s a d
  | tcSyncGetFrame n r => exact execTcSyncGetFrame_answers s n r
  | tmSyncSynchronize ch al fl r => exact execTmSyncSynchronize_answers s ch al fl r
  | sdlpInitChannel ch g => exact execSdlpInitChannel_answers s ch g
  | sdlpStartFrame ch => exact execSdlpStartFrame_answers hs ch hp
  | sdlpAddPacket ch len | sdlpAddIdlePacket ch len | sdlpAddVcaData ch len => exact addData_answers hs ch len _
  | sdlpCompleteFrame ch b d => exact execSdlpCompleteFrame_answers hs ch b d
  | sdlpGetStatus ch sel => exact execSdlpGetStatus_answers s ch sel

/-- Settles O12, by the branches of the step: only the execution of a command could stop, and none does in a sound
state. -/
theorem soundStateNeverStops : Obligations.SoundStateNeverStops := by
  intro s hs
  unfold step
  split
  · exact ⟨_, rfl⟩
  · exact ⟨_, rfl⟩
  · split
    · exact exec_answers (State.ok_withHostIn hs _) _
    · exact ⟨_, rfl⟩

end Sys2Proof.Machine
end

section
/-! SUPPORT. Who writes what (10_state.md R15 to R26, 70_reset_and_hazards.md R279): for each piece of state, the commands
whose effects can change it. -/

namespace Sys2Proof.Machine

open Claims (AddCommand WritesChannel)

theorem addCommand_fieldCh {i : Instr} {ch : BitVec 8} {len : Half} {k : Bool} (h : AddCommand i ch len k) :
    i.fieldCh = ch := by
  rcases h with ⟨rfl, -⟩ | ⟨rfl, -⟩ | ⟨rfl, -⟩ <;> rfl

theorem addCommand_opcode {i : Instr} {ch : BitVec 8} {len : Half} {k : Bool} (h : AddCommand i ch len k) :
    i.opcode = 0x82 ∨ i.opcode = 0x83 ∨ i.opcode = 0x84 := by
  rcases h with ⟨rfl, -⟩ | ⟨rfl, -⟩ | ⟨rfl, -⟩
  · exact .inl rfl
  · exact .inr (.inl rfl)
  · exact .inr (.inr rfl)

/-! ### Channel contexts -/

theorem State.getElem?_setChannel_of_ne (s : State) {ch : BitVec 8} (c : Channel) {k : Nat} (h : k ≠ ch.toNat) :
    (s.setChannel ch c).chans[k]? = s.chans[k]? := List.getElem?_set_ne h.symm

theorem State.getElem?_setSpaceBuffer_of_ne (s : State) {ch : BitVec 8} (m : Memory) (sp : Space) {k : Nat}
    (h : k ≠ ch.toNat) : (s.setSpaceBuffer ch m sp).chans[k]? = s.chans[k]? := by
  cases sp with
  | frm => exact List.getElem?_modify_ne _ _ h.symm
  | cltu | tcbuf | paybuf | inbuf | asmbuf | cadu => rfl

/-- Every channel holds the overflow ring memory it held. -/
def State.SameRings (s u : State) : Prop := ∀ k : Nat, (u.chans[k]?).map Channel.ovf = (s.chans[k]?).map Channel.ovf

theorem State.SameRings.refl (s : State) : s.SameRings s := fun _ => rfl

theorem State.sameRings_setChannel {s : State} {ch : BitVec 8} {c c' : Channel} (hc : s.chans[ch.toNat]? = some c)
    (h : c'.ovf = c.ovf) : s.SameRings (s.setChannel ch c') := by
  intro k
  by_cases hk : k = ch.toNat
  · subst hk
    rw [State.setChannel_chans, List.getElem?_set_self', hc]
    exact congrArg some h
  · rw [State.getElem?_setChannel_of_ne s c' hk]

theorem State.sameRings_setSpaceBuffer {s : State} {ch : BitVec 8} {sp : Space} {m : Memory}
    (hm : s.spaceBuffer ch sp = some m) (m' : Memory) : s.SameRings (s.setSpaceBuffer ch m' sp) := by
  cases sp with
  | frm =>
    obtain ⟨c, hc, -⟩ := State.spaceBuffer_frm hm
    rw [State.setSpaceBuffer_frm hc]
    exact State.sameRings_setChannel hc rfl
  | cltu | tcbuf | paybuf | inbuf | asmbuf | cadu => exact .refl s

/-- The refill reads the ring and does not write it (R210). -/
theorem Channel.refill_ovf {p : Params} {l : List Segment} {c c' : Channel} (h : Channel.refill p l c = .ok c') :
    c'.ovf = c.ovf := by
  induction l generalizing c with
  | nil =>
    unfold Channel.refill at h
    split at h <;> cases h
    rfl
  | cons g l ih =>
    unfold Channel.refill at h
    split at h
    · cases h; rfl
    · split at h
      · cases h
      · split at h
        · exact (ih h).trans (Channel.copyFromOverflow_ovf p c g)
        · cases h; exact Channel.copyFromOverflow_ovf p c g

/-! ### The writers of each piece of state -/

namespace Effect

variable {i : Instr} {s u : State} {st : Status}

theorem chans_of_ne (h : Effect s i u st) {k : Nat} (hk : k ≠ i.fieldCh.toNat) : u.chans[k]? = s.chans[k]? := by
  cases h with
  | space => exact State.getElem?_setSpaceBuffer_of_ne s _ _ hk
  | frame => exact State.getElem?_setChannel_of_ne s _ hk
  | init | start => exact State.getElem?_setChannel_of_ne s _ hk
  | add hadd => exact State.getElem?_setChannel_of_ne s _ (addCommand_fieldCh hadd ▸ hk)
  | complete => exact State.getElem?_setChannel_of_ne (s.setMcfc _) _ hk
  | keeps | payload | initClcw | farm | deliver | extract | cadu => rfl

theorem chans_eq (h : Effect s i u st) (hw : ¬WritesChannel i) : u.chans = s.chans := by
  cases h with
  | space => exact absurd (.inl rfl) hw
  | frame hop => exact absurd (.inr (.inl hop)) hw
  | init | start | complete => exact absurd (.inr (.inr (by simp [Instr.opcode]))) hw
  | add hadd =>
    refine absurd (.inr (.inr ?_)) hw
    rcases addCommand_opcode hadd with hop | hop | hop <;> rw [hop] <;> decide
  | keeps | payload | initClcw | farm | deliver | extract | cadu => rfl

theorem mcfc_eq_or (h : Effect s i u st) :
    u.mcfc = s.mcfc ∨ u.mcfc = s.mcfc + 1 ∧ st = .ok ∧ ∃ ch p d, i = .sdlpCompleteFrame ch p d := by
  cases h with
  | space => exact .inl (State.setSpaceBuffer_mcfc ..)
  | complete p d => exact .inr ⟨rfl, rfl, _, p, d, rfl⟩
  | _ => exact .inl rfl

theorem cltu_eq (h : Effect s i u st) (hop : i.opcode ≠ 0x02) : u.cltu = s.cltu := by
  cases h with
  | space => exact absurd rfl hop
  | _ => rfl

theorem tcbuf_eq (h : Effect s i u st) (hop : ¬(i.opcode = 0x02 ∨ i.opcode = 0x60)) : u.tcbuf = s.tcbuf := by
  cases h with
  | space => exact absurd (.inl rfl) hop
  | extract => exact absurd (.inr rfl) hop
  | _ => rfl

/-- The host may not write `PAYBUF` (R35). -/
theorem paybuf_eq (h : Effect s i u st) (hop : ¬(i.opcode = 0x2A ∨ i.opcode = 0x51)) : u.paybuf = s.paybuf := by
  cases h with
  | @space _ _ _ _ sp _ hw =>
    cases sp with
    | paybuf => exact absurd hw Bool.false_ne_true
    | cltu | tcbuf | inbuf | asmbuf | cadu | frm => rfl
  | payload => exact absurd (.inl rfl) hop
  | deliver => exact absurd (.inr rfl) hop
  | _ => rfl

theorem inbuf_eq (h : Effect s i u st) (hop : i.opcode ≠ 0x02) : u.inbuf = s.inbuf := by
  cases h with
  | space => exact absurd rfl hop
  | _ => rfl

theorem asmbuf_eq (h : Effect s i u st) (hop : i.opcode ≠ 0x02) : u.asmbuf = s.asmbuf := by
  cases h with
  | space => exact absurd rfl hop
  | _ => rfl

/-- The host may not write `CADU` (R35). -/
theorem cadu_eq (h : Effect s i u st) (hop : i.opcode ≠ 0x70) : u.cadu = s.cadu := by
  cases h with
  | @space _ _ _ _ sp _ hw =>
    cases sp with
    | cadu => exact absurd hw Bool.false_ne_true
    | cltu | tcbuf | paybuf | inbuf | asmbuf | frm => rfl
  | cadu => exact absurd rfl hop
  | _ => rfl

theorem tcLen_eq (h : Effect s i u st) (hop : i.opcode ≠ 0x60) : u.tcLen = s.tcLen := by
  cases h with
  | space => exact State.setSpaceBuffer_tcLen ..
  | extract => exact absurd rfl hop
  | _ => rfl

theorem payLen_eq (h : Effect s i u st) (hop : ¬(i.opcode = 0x2A ∨ i.opcode = 0x51)) : u.payLen = s.payLen := by
  cases h with
  | space => exact State.setSpaceBuffer_payLen ..
  | payload => exact absurd (.inl rfl) hop
  | deliver => exact absurd (.inr rfl) hop
  | _ => rfl

theorem caduLen_eq (h : Effect s i u st) (hop : i.opcode ≠ 0x70) : u.caduLen = s.caduLen := by
  cases h with
  | space => exact State.setSpaceBuffer_caduLen ..
  | cadu => exact absurd rfl hop
  | _ => rfl

theorem sameRings (h : Effect s i u st)
    (hop : ¬(i.opcode = 0x80 ∨ i.opcode = 0x82 ∨ i.opcode = 0x83 ∨ i.opcode = 0x84)) : s.SameRings u := by
  cases h with
  | space hw hm => exact State.sameRings_setSpaceBuffer hm _
  | frame _ hc => exact State.sameRings_setChannel hc rfl
  | init => exact absurd (.inl rfl) hop
  | start hc _ hr => exact State.sameRings_setChannel hc (Channel.refill_ovf hr :)
  | add hadd => exact absurd (.inr (addCommand_opcode hadd)) hop
  | complete _ _ hc => exact State.sameRings_setChannel (s := s.setMcfc (s.mcfc + 1)) hc (Channel.complete_ovf ..)
  | keeps | payload | initClcw | farm | deliver | extract | cadu => exact .refl s

end Effect

/-- Settles O20, from the effects on channel contexts. -/
theorem otherChannelsAreUntouched : Obligations.OtherChannelsAreUntouched := by
  intro i s t h
  obtain ⟨u, st, v, effect, -, rfl⟩ := exec_completes h
  exact ⟨fun _ => effect.chans_of_ne, effect.chans_eq⟩

/-- Settles O21, from the effects on `MCFC`. -/
theorem masterCountMovesOnlyByCompletion : Obligations.MasterCountMovesOnlyByCompletion := by
  intro i s t h moved
  obtain ⟨u, st, v, effect, -, rfl⟩ := exec_completes h
  rcases effect.mcfc_eq_or with kept | ⟨count, rfl, completion⟩
  · exact absurd kept moved
  · exact ⟨count, rfl, completion⟩

/-- Settles O22: a buffer that changed, or its length register, has the writer without which the effect keeps it. -/
theorem buffersAreWrittenOnlyByTheirCommands : Obligations.BuffersAreWrittenOnlyByTheirCommands := by
  intro i s t h
  obtain ⟨u, st, v, effect, -, rfl⟩ := exec_completes h
  refine ⟨?cltu, ?tcbuf, ?paybuf, ?inbuf, ?asmbuf, ?cadu, ?tcLen, ?payLen, ?caduLen, ?ovf⟩
  case cltu => exact not_imp_comm.1 effect.cltu_eq
  case tcbuf => exact not_imp_comm.1 effect.tcbuf_eq
  case paybuf => exact not_imp_comm.1 effect.paybuf_eq
  case inbuf => exact not_imp_comm.1 effect.inbuf_eq
  case asmbuf => exact not_imp_comm.1 effect.asmbuf_eq
  case cadu => exact not_imp_comm.1 effect.cadu_eq
  case tcLen => exact not_imp_comm.1 effect.tcLen_eq
  case payLen => exact not_imp_comm.1 effect.payLen_eq
  case caduLen => exact not_imp_comm.1 effect.caduLen_eq
  case ovf =>
    intro k c c' hc hc' changed
    by_contra hop
    have same := effect.sameRings hop k
    rw [hc, show u.chans[k]? = some c' from hc'] at same
    exact changed (Option.some.inj same)

end Sys2Proof.Machine
end

section
/-! SUPPORT. The reset event (70_reset_and_hazards.md R270) and the constant tables (10_state.md R17). -/

namespace Sys2Proof.Machine

theorem step_of_reset {s : State} {w : Option Command} {rest : List HostEvent} (h : s.hostIn = .reset w :: rest) :
    step s = .next (s.withHostIn rest).resetPulse := by
  unfold step
  rw [h]

theorem Clcw.word_reset : Clcw.reset.word = 0 := by decide

/-- The default attached sync marker, octet by octet (R18, R31). -/
theorem oct_asmbufReset (a : Nat) : Claims.oct asmbufReset a =
    if a = 0 then 0x1A else if a = 1 then 0xCF else if a = 2 then 0xFC else if a = 3 then 0x1D else 0 := by
  rcases a with _ | _ | _ | _ | a
  all_goals rfl

/-- Settles O9: the event's word has no part in the pulse, and every channel is the reset context. -/
theorem resetEventRestoresResetState : Obligations.ResetEventRestoresResetState := by
  intro s w rest h
  refine ⟨_, step_of_reset h, rfl, rfl, rfl, rfl, rfl, Clcw.word_reset, rfl, rfl, rfl, rfl,
    fun _ => ⟨rfl, rfl, rfl, rfl, rfl⟩, oct_asmbufReset, List.length_replicate, ?_⟩
  intro k c hc
  have reset : c = Channel.reset s.params := List.eq_of_mem_replicate (List.mem_of_getElem? hc)
  subst reset
  exact ⟨fun _ => ⟨rfl, rfl⟩, rfl, rfl⟩

/-- Settles O39: the generator is run on both polynomials. -/
theorem prbsTablesAreGenerated : Obligations.PrbsTablesAreGenerated := by
  unfold Obligations.PrbsTablesAreGenerated
  constructor <;> decide

end Sys2Proof.Machine
end

section
/-! SUPPORT. A command word at the port (20_memory.md R41, 30_encoding.md R53). -/

namespace Sys2Proof.Machine

theorem step_of_command {s : State} {w : Command} {rest : List HostEvent} {i : Instr}
    (h : s.hostIn = .command w :: rest) (hw : decode w = .ok i) : step s = exec i (s.withHostIn rest) := by
  unfold step
  rw [h]
  simp only [hw]

/-- Settles O5: the branch of the step for a word that decodes. -/
theorem stepRunsDecodedCommand : Obligations.StepRunsDecodedCommand :=
  fun _ _ _ _ presented decoded _ => step_of_command presented decoded

end Sys2Proof.Machine
end

section
/-! SUPPORT. The buffer spaces under host access (20_memory.md R35, R39; 40_host_access.md R75, R76): what BUF_RD and BUF_WR
answer on a buffer that the space id selects, and the selected buffer after a store. -/

namespace Sys2Proof.Machine

open Claims (Answers Stored oct)

/-! ### The buffer of a space after an update -/

@[simp] theorem State.respond_spaceBuffer (s : State) (st : Status) (v : Word) (ch : BitVec 8) (sp : Space) :
    (s.respond st v).spaceBuffer ch sp = s.spaceBuffer ch sp := by
  cases sp with
  | cltu | tcbuf | paybuf | inbuf | asmbuf | cadu | frm => rfl

/-- A space reads as the buffer that replaced its own, provided the space exists: space 6 needs the channel. -/
theorem State.spaceBuffer_setSpaceBuffer {s : State} {ch : BitVec 8} {sp : Space} {m : Memory}
    (h : s.spaceBuffer ch sp = some m) (m' : Memory) : (s.setSpaceBuffer ch m' sp).spaceBuffer ch sp = some m' := by
  cases sp with
  | frm =>
    obtain ⟨c, hc, -⟩ := State.spaceBuffer_frm h
    rw [State.setSpaceBuffer_frm hc, State.spaceBuffer, State.setFrame_chans, List.getElem?_set_self', hc]
    rfl
  | cltu | tcbuf | paybuf | inbuf | asmbuf | cadu => rfl

theorem State.spaceBuffer_frm_of_some {s : State} {ch : BitVec 8} {c : Channel} (hc : s.chans[ch.toNat]? = some c) :
    s.spaceBuffer ch .frm = some c.frm := by
  rw [State.spaceBuffer, hc]
  rfl

theorem stored_write (m : Memory) (a : Nat) (v : Octet) : Stored m (m.write a v) a v := Memory.read_write m a v

/-! ### The two commands on a selected buffer -/

section
variable {s : State} {ch : BitVec 8} {space addr : Half} {sp : Space} {m : Memory}

/-- On a space that exists, only the address is left to check (R75). -/
theorem execBufRd_of_spaceBuffer (hsp : spaceOfId space = some sp) (hm : s.spaceBuffer ch sp = some m) :
    execBufRd ch space addr s = if spaceSize s.params sp ≤ addr.toNat then raise s .invalidArgument
      else done s ((m.read addr.toNat).setWidth 32) := by
  simp only [execBufRd, hsp, hm]

theorem bufRd_answers_octet (hsp : spaceOfId space = some sp) (hm : s.spaceBuffer ch sp = some m)
    (ha : addr.toNat < spaceSize s.params sp) : Answers (.bufRd ch space addr) s s .ok (oct m addr.toNat) := by
  have octet : (m.read addr.toNat).setWidth 32 = BitVec.ofNat 32 (oct m addr.toNat) := setWidth_eq_ofNat _ rfl
  have read := execBufRd_of_spaceBuffer (addr := addr) hsp hm
  rw [if_neg (Nat.not_le.2 ha), octet] at read
  exact read

theorem bufWr_answers_stored (hsp : spaceOfId space = some sp) (hw : spaceHostWritable sp = true)
    (hm : s.spaceBuffer ch sp = some m) (ha : addr.toNat < spaceSize s.params sp) (v : Octet) :
    Answers (.bufWr ch space addr v) s (s.setSpaceBuffer ch (m.write addr.toNat v) sp) .ok 0 := by
  have stored : execBufWr ch space addr v s = done (s.setSpaceBuffer ch (m.write addr.toNat v) sp) 0 := by
    simp only [execBufWr, hsp, hw, hm, Nat.not_le.2 ha, Bool.not_true, Bool.false_eq_true, if_false]
  exact stored

end

/-! ### Host access -/

/-- Settles O24, space by space. -/
theorem bufRdReturnsTheOctet : Obligations.BufRdReturnsTheOctet := by
  intro ch addr s
  refine ⟨?cltu, ?tcbuf, ?paybuf, ?inbuf, ?asmbuf, ?cadu, ?frm⟩
  case cltu => exact bufRd_answers_octet (sp := .cltu) rfl rfl
  case tcbuf => exact bufRd_answers_octet (sp := .tcbuf) rfl rfl
  case paybuf => exact bufRd_answers_octet (sp := .paybuf) rfl rfl
  case inbuf => exact bufRd_answers_octet (sp := .inbuf) rfl rfl
  case asmbuf => exact bufRd_answers_octet (sp := .asmbuf) rfl rfl
  case cadu => exact bufRd_answers_octet (sp := .cadu) rfl rfl
  case frm =>
    intro c hc
    exact bufRd_answers_octet rfl (State.spaceBuffer_frm_of_some hc)

/-- Settles O25, space by space: the buffer afterwards is the old one with the octet written. -/
theorem bufWrStoresTheOctet : Obligations.BufWrStoresTheOctet := by
  intro ch addr v s
  refine ⟨?cltu, ?tcbuf, ?inbuf, ?asmbuf, ?frm⟩
  case cltu => exact fun ha => ⟨_, bufWr_answers_stored (sp := .cltu) rfl rfl rfl ha v, stored_write _ _ _⟩
  case tcbuf => exact fun ha => ⟨_, bufWr_answers_stored (sp := .tcbuf) rfl rfl rfl ha v, stored_write _ _ _⟩
  case inbuf => exact fun ha => ⟨_, bufWr_answers_stored (sp := .inbuf) rfl rfl rfl ha v, stored_write _ _ _⟩
  case asmbuf => exact fun ha => ⟨_, bufWr_answers_stored (sp := .asmbuf) rfl rfl rfl ha v, stored_write _ _ _⟩
  case frm =>
    intro c hc ha
    have stored := bufWr_answers_stored (space := 6) rfl rfl (State.spaceBuffer_frm_of_some hc) ha v
    rw [State.setSpaceBuffer_frm hc] at stored
    exact ⟨_, stored, stored_write _ _ _⟩

/-- Settles O27: after the store the space selects the buffer with the octet written, so that BUF_RD finds the octet at
its address, and at every other address the check and the octet it found before. -/
theorem writtenOctetIsReadBack : Obligations.WrittenOctetIsReadBack := by
  intro ch space addr v s t wrote status_ok
  rcases execBufWr_next wrote with rfl | ⟨sp, m, hsp, -, hm, ha, rfl⟩
  · rw [State.respond_status] at status_ok
    exact absurd status_ok (by decide)
  · have selected : ((s.setSpaceBuffer ch (m.write addr.toNat v) sp).respond .ok 0).spaceBuffer ch sp =
        some (m.write addr.toNat v) := by
      rw [State.respond_spaceBuffer, State.spaceBuffer_setSpaceBuffer hm]
    have params : ((s.setSpaceBuffer ch (m.write addr.toNat v) sp).respond .ok 0).params = s.params := by simp
    generalize (s.setSpaceBuffer ch (m.write addr.toNat v) sp).respond .ok 0 = t at selected params
    constructor
    · have octet : oct (m.write addr.toNat v) addr.toNat = v.toNat := by simp [oct]
      exact octet ▸ bufRd_answers_octet hsp selected (params ▸ ha)
    · intro addr' u other read
      have elsewhere : (m.write addr.toNat v).read addr'.toNat = m.read addr'.toNat := by
        rw [Memory.read_write, if_neg fun same => other (BitVec.eq_of_toNat_eq same)]
      have before : execBufRd ch space addr' s = .next u := read
      have after : exec (.bufRd ch space addr') t = _ := execBufRd_of_spaceBuffer hsp selected
      rw [execBufRd_of_spaceBuffer hsp hm] at before
      rw [params, elsewhere] at after
      split at before
      · rw [(raise_next _ _ _).1 before, after, if_pos ‹_›]
        exact ⟨_, rfl, rfl, rfl⟩
      · rw [(done_next _ _ _).1 before, after, if_neg ‹_›]
        exact ⟨_, rfl, rfl, rfl⟩

end Sys2Proof.Machine
end

section
/-! SUPPORT. The bounds of the buffers (20_memory.md R36) are kept by every step, whatever the registers hold: the commands
check the addresses they write, and nothing of 10_state.md R27 is needed. -/

namespace Sys2Proof.Machine

/-! ### The buffers of one channel -/

theorem Channel.memOk_iff (p : Params) (c : Channel) :
    c.memOk p = true ↔ c.frm.ok p.frameCap = true ∧ c.ovf.ok p.ovfCap = true := Bool.and_eq_true_iff

theorem Channel.memOk_initialisedChannel {p : Params} (hcap : 70 ≤ p.frameCap) (g : ChannelConfig) :
    (initialisedChannel p g).memOk p = true :=
  (Channel.memOk_iff p _).2 ⟨Memory.ok_initHeader hcap g, Memory.ok_cleared _⟩

theorem Channel.memOk_complete {p : Params} {c : Channel} (h : c.memOk p = true) (hcap : 70 ≤ p.frameCap)
    (ht : c.trailersFit p = true) (mc : BitVec 8) (d : Word) : (c.complete mc d).memOk p = true := by
  obtain ⟨frm, ovf⟩ := (Channel.memOk_iff p c).1 h
  exact (Channel.memOk_iff p _).2 ⟨Channel.ok_completedFrame frm hcap ht mc d, ovf⟩

theorem Channel.memOk_setFrm {p : Params} {c : Channel} (h : c.memOk p = true) {f : Memory}
    (hf : f.ok p.frameCap = true) : ({ c with frm := f } : Channel).memOk p = true := by
  obtain ⟨-, ovf⟩ := (Channel.memOk_iff p c).1 h
  exact (Channel.memOk_iff p _).2 ⟨hf, ovf⟩

/-! ### The buffers of all channels -/

theorem State.forall_chans_setChannel {P : Channel → Prop} {s : State} (h : ∀ c ∈ s.chans, P c) (ch : BitVec 8)
    {c : Channel} (hc : P c) : ∀ c' ∈ (s.setChannel ch c).chans, P c' := by
  intro c' hmem
  rcases List.mem_or_eq_of_mem_set hmem with hmem | rfl
  · exact h c' hmem
  · exact hc

theorem State.chansMemOk_setSpaceBuffer {s : State} (h : ∀ c ∈ s.chans, c.memOk s.params = true) {ch : BitVec 8}
    {sp : Space} {m : Memory} (hm : s.spaceBuffer ch sp = some m) {a : Nat} (ha : a < spaceSize s.params sp)
    (v : Octet) : ∀ c ∈ (s.setSpaceBuffer ch (m.write a v) sp).chans, c.memOk s.params = true := by
  cases sp with
  | frm =>
    obtain ⟨c, hc, rfl⟩ := State.spaceBuffer_frm hm
    have memOk := h c (List.mem_of_getElem? hc)
    obtain ⟨frm, -⟩ := (Channel.memOk_iff _ _).1 memOk
    rw [State.setSpaceBuffer_frm hc]
    exact State.forall_chans_setChannel h ch (Channel.memOk_setFrm memOk (Memory.ok_write frm ha v))
  | cltu | tcbuf | paybuf | inbuf | asmbuf | cadu => exact h

/-- Every effect keeps the buffers of every channel within their capacities. -/
theorem Effect.chansMemOk {i : Instr} {s u : State} {st : Status} (h : Effect s i u st)
    (hp : s.params.wellFormed = true) (hs : ∀ c ∈ s.chans, c.memOk s.params = true) :
    ∀ c ∈ u.chans, c.memOk s.params = true := by
  obtain ⟨frameCap_ge, -, ovfCap_ge, -⟩ := Params.bounds hp
  cases h with
  | space hw hm ha => exact State.chansMemOk_setSpaceBuffer hs hm ha _
  | frame hop hc hf =>
    have memOk := hs _ (List.mem_of_getElem? hc)
    obtain ⟨frm, -⟩ := (Channel.memOk_iff _ _).1 memOk
    exact State.forall_chans_setChannel hs _ (Channel.memOk_setFrm memOk (hf frameCap_ge frm))
  | @init g ch hg => exact State.forall_chans_setChannel hs ch (Channel.memOk_initialisedChannel frameCap_ge g)
  | @start _ c _ hc hi hr =>
    have ready : ({ c with isReady := true } : Channel).memOk s.params = true := hs c (List.mem_of_getElem? hc)
    exact State.forall_chans_setChannel hs _ (Channel.memOk_refill frameCap_ge ready hr)
  | @add _ _ len k _ hadd hc hi hr h1 ho hn =>
    have memOk := hs _ (List.mem_of_getElem? hc)
    exact State.forall_chans_setChannel hs _ (Channel.memOk_addUnit memOk frameCap_ge ovfCap_ge s.inbuf len.toNat k hn)
  | complete p d hc hi ht =>
    have memOk := hs _ (List.mem_of_getElem? hc)
    exact State.forall_chans_setChannel (s := s.setMcfc _) hs _ (Channel.memOk_complete memOk frameCap_ge ht _ d)
  | keeps | payload | initClcw | farm | deliver | extract | cadu => exact hs

/-! ### The step -/

/-- Every buffer of the block, those of the channels included, is canonical and within its capacity (R36). -/
def State.AllBuffersOk (s : State) : Prop :=
  s.buffersOk = true ∧ s.chans.all (fun c => c.memOk s.params) = true

theorem State.allBuffersOk_resetPulse {s : State} (h : s.params.wellFormed = true) : s.resetPulse.AllBuffersOk := by
  refine ⟨State.buffersOk_resetOf h s.nTmChan, List.all_eq_true.2 fun c hc => ?_⟩
  rw [List.eq_of_mem_replicate hc]
  rfl

theorem exec_allBuffersOk {i : Instr} {s t : State} (hp : s.params.wellFormed = true) (hs : s.AllBuffersOk)
    (h : exec i s = .next t) : t.AllBuffersOk := by
  obtain ⟨buffers, chans⟩ := hs
  have params : t.params = s.params := (exec_respondsTo h).sameSetup.params
  obtain ⟨u, st, v, effect, -, rfl⟩ := exec_completes h
  refine ⟨effect.buffersOk buffers, ?_⟩
  rw [params]
  exact List.all_eq_true.2 (effect.chansMemOk hp (List.all_eq_true.1 chans))

/-- Settles O13, by the branches of the step: every effect a command can have keeps the bounds. -/
theorem everyStepKeepsBuffersInBounds : Obligations.EveryStepKeepsBuffersInBounds := by
  intro s t params buffers chans h
  have hp := State.wellFormed_of_paramsOk params
  have hs : s.AllBuffersOk := ⟨buffers, chans⟩
  rcases step_next h with rfl | ⟨rest, rfl⟩ | ⟨rest, rfl⟩ | ⟨i, rest, h⟩
  · exact hs
  · exact State.allBuffersOk_resetPulse (s := s.withHostIn rest) hp
  · exact hs
  · exact exec_allBuffersOk (s := s.withHostIn rest) hp hs h

end Sys2Proof.Machine
end

section
/-! SUPPORT. Operands in a command word (30_encoding.md R50, R55, R63): a part of a field is a part of the word, and a value
that the encoder packs into `d` comes back from the halves of `d`. -/

namespace Sys2Proof

open Claims (wCh wA wB wC wD wDescriptor wConfig)

/-! ### Parts of a word's fields -/

/-- The low bits of `c` are the low bits of the word. -/
theorem extract_wC (w : Command) {i n : Nat} (h : i + n ≤ 16) : (wC w).extractLsb' i n = w.extractLsb' i n := by
  rw [wC, extract_extract w 0 16 i n h, Nat.zero_add]

theorem getLsbD_wC (w : Command) {i : Nat} (h : i < 16) : (wC w).getLsbD i = w.getLsbD i := by
  rw [wC, getLsbD_extract w 0 16 i h, Nat.zero_add]

theorem getLsbD_wA (w : Command) {i : Nat} (h : i < 16) : (wA w).getLsbD i = w.getLsbD (32 + i) :=
  getLsbD_extract w 32 16 i h

/-- `d` = `b : c` (R50). -/
theorem wB_append_wC (w : Command) : wB w ++ wC w = wD w := extract_append_extract w 0 16 16

theorem extract_wD (w : Command) {i n : Nat} (h : i + n ≤ 32) : (wD w).extractLsb' i n = w.extractLsb' i n := by
  rw [wD, extract_extract w 0 32 i n h, Nat.zero_add]

theorem getLsbD_wD (w : Command) {i : Nat} (h : i < 32) : (wD w).getLsbD i = w.getLsbD i := by
  rw [wD, getLsbD_extract w 0 32 i h, Nat.zero_add]

/-- `svc_type` by the number its two bits hold (R55). -/
theorem ServiceType.ofBits_eq (v : BitVec 2) : ServiceType.ofBits v =
    if v.toNat = 0 then .mcf else if v.toNat = 1 then .access else if v.toNat = 2 then .nonAccess else .reserved := by
  revert v
  decide

theorem ServiceDescriptor.ofWord_wD (w : Command) : ServiceDescriptor.ofWord (wD w) = wDescriptor w := by
  have svcType : ServiceType.ofBits ((wD w).extractLsb' 0 2) = (wDescriptor w).svcType := by
    rw [extract_wD w (by omega), ServiceType.ofBits_eq, toNat_extract, Nat.pow_zero, Nat.div_one]
    rfl
  rw [ServiceDescriptor.ofWord, svcType]
  simp only [extract_wD, getLsbD_wD, Nat.reduceAdd, Nat.reduceLeDiff, Nat.reduceLT]
  rfl

theorem ServiceDescriptor.ofWord_halves (w : Command) : ServiceDescriptor.ofWord (wB w ++ wC w) = wDescriptor w := by
  rw [wB_append_wC, ServiceDescriptor.ofWord_wD]

theorem ChannelConfig.ofFields_word (w : Command) : ChannelConfig.ofFields (wA w) (wB w) (wC w) = wConfig w := by
  have scid : (wB w).extractLsb' 0 10 = w.extractLsb' 16 10 := extract_extract w 16 16 0 10 (by omega)
  have fecf : (wB w).getLsbD 10 = w.getLsbD 26 := getLsbD_extract w 16 16 10 (by omega)
  simp only [ChannelConfig.ofFields, scid, fecf, extract_wC, getLsbD_wC, Nat.reduceAdd, Nat.reduceLeDiff, Nat.reduceLT]
  rfl

/-! ### Values packed into `d` -/

theorem extract_high_half (x y : Half) : (x ++ y).extractLsb' 16 16 = x := by
  rw [extract_append_high x y 16 16 (by omega)]
  exact extract_self x

theorem extract_low_half (x y : Half) : (x ++ y).extractLsb' 0 16 = y := by
  rw [extract_append_low x y 0 16 (by omega), extract_self]

/-- An operand below ignored bits. -/
theorem extract_zero_append {m n : Nat} (v : BitVec n) : (0#m ++ v).extractLsb' 0 n = v := by
  rw [extract_append_low _ v 0 n (by omega), extract_self]

theorem getLsbD_zero_append_ofBool (m : Nat) (v : Bool) : (0#m ++ BitVec.ofBool v).getLsbD 0 = v := by
  cases v <;> simp [BitVec.getLsbD_append]

/-- An operand at the bottom of `d`, read from the low half of `d`. -/
theorem extract_low_half_zero_append {m n : Nat} (v : BitVec n) (h : n ≤ 16) :
    ((0#m ++ v).extractLsb' 0 16).extractLsb' 0 n = v := by
  rw [extract_extract _ 0 16 0 n (by omega), extract_zero_append]

/-- A flag at the bottom of `d`, read from the low half of `d`. -/
theorem getLsbD_low_half_zero_append (m : Nat) (v : Bool) :
    ((0#m ++ BitVec.ofBool v).extractLsb' 0 16).getLsbD 0 = v := by
  rw [getLsbD_extract _ 0 16 0 (by omega), getLsbD_zero_append_ofBool]

theorem ServiceDescriptor.ofWord_halves_word (s : ServiceDescriptor) :
    ServiceDescriptor.ofWord (s.word.extractLsb' 16 16 ++ s.word.extractLsb' 0 16) = s := by
  rw [extract_halves, ServiceDescriptor.ofWord_word]

theorem ChannelConfig.ofFields_halves (g : ChannelConfig) : ChannelConfig.ofFields g.frameLen
    ((g.fieldB ++ g.fieldC).extractLsb' 16 16) ((g.fieldB ++ g.fieldC).extractLsb' 0 16) = g := by
  rw [extract_high_half, extract_low_half, ChannelConfig.ofFields_fields]

end Sys2Proof
end

section
/-! SUPPORT. The decoder (30_encoding.md R54, R64): it reads back what the encoder writes, it is the opcode map, and it
rejects the reserved opcodes and no other. -/

namespace Sys2Proof

open Claims (OpDecodes ReservedOp wCh wA wB wC wD wDescriptor wConfig)

/-! ### Decoding an encoded command -/

/-- Two decodings of one row of the opcode map agree when its operand agrees. -/
theorem decoded_congr {α : Type} (mk : α → Instr) {x y : α} (h : x = y) :
    (Except.ok (mk x) : Except DecodeError Instr) = .ok (mk y) := congrArg (fun z => Except.ok (mk z)) h

/-- The decoder finds the operands of a command in the fields that the encoder gave them. -/
theorem decode_encode (i : Instr) : decode (encode i) = .ok i := by
  rw [decode, Command.fields_encode]
  cases i with
  | tcGetVersion | tcGetBypass | tcGetCtlcmd | tcGetScid | tcGetVcid | tcGetLength | tcGetSeq | tcGetSegFlags
  | tcGetMapid | clcwGetCopEffect | clcwGetVcid | clcwRd => rfl
  | tmGetVersion | tmGetScid | tmGetVcid | tmGetOcfFlag | tmGetMcCount | tmGetVcCount | tmGetSechdrFlag | tmGetSyncFlag
  | tmGetPktOrderFlag | tmGetSegLenId | tmGetFhp | tmGetSechdrLen | tmGetGvcid | tmGetMcid => rfl
  | tmSetSechdrData | tmUpdateFecf | sdlpStartFrame | sdlpAddPacket | sdlpAddIdlePacket | sdlpAddVcaData
  | sdlpGetStatus => rfl
  | bufRd ch space addr => exact decoded_congr (.bufRd ch space) (extract_high_half addr 0)
  | bufWr ch space addr octet =>
    have octet_read : ((addr ++ (0#8 ++ octet)).extractLsb' 0 16).extractLsb' 0 8 = octet := by
      rw [extract_low_half, extract_zero_append]
    exact congrArg₂ (fun x y => Except.ok (Instr.bufWr ch space x y)) (extract_high_half addr _) octet_read
  | tcGetPayloadLen d => exact decoded_congr .tcGetPayloadLen (ServiceDescriptor.ofWord_halves_word d)
  | tcCopyPayload d => exact decoded_congr .tcCopyPayload (ServiceDescriptor.ofWord_halves_word d)
  | tcIsValid d => exact decoded_congr .tcIsValid (ServiceDescriptor.ofWord_halves_word d)
  | tmSetVersion ch v => exact decoded_congr (.tmSetVersion ch) (extract_low_half_zero_append v (by decide))
  | tmSetScid ch v => exact decoded_congr (.tmSetScid ch) (extract_low_half_zero_append v (by decide))
  | tmSetVcid ch v => exact decoded_congr (.tmSetVcid ch) (extract_low_half_zero_append v (by decide))
  | tmSetOcfFlag ch v => exact decoded_congr (.tmSetOcfFlag ch) (getLsbD_low_half_zero_append 31 v)
  | tmSetMcCount ch v => exact decoded_congr (.tmSetMcCount ch) (extract_low_half_zero_append v (by decide))
  | tmSetVcCount ch v => exact decoded_congr (.tmSetVcCount ch) (extract_low_half_zero_append v (by decide))
  | tmSetSechdrFlag ch v => exact decoded_congr (.tmSetSechdrFlag ch) (getLsbD_low_half_zero_append 31 v)
  | tmSetSyncFlag ch v => exact decoded_congr (.tmSetSyncFlag ch) (getLsbD_low_half_zero_append 31 v)
  | tmSetPktOrderFlag ch v => exact decoded_congr (.tmSetPktOrderFlag ch) (getLsbD_low_half_zero_append 31 v)
  | tmSetSegLenId ch v => exact decoded_congr (.tmSetSegLenId ch) (extract_low_half_zero_append v (by decide))
  | tmSetFhp ch v => exact decoded_congr (.tmSetFhp ch) (extract_low_half_zero_append v (by decide))
  | tmSetSechdrLen ch len => exact decoded_congr (.tmSetSechdrLen ch) (extract_low_half 0 len)
  | tmSetOcf ch off ocf => exact decoded_congr (.tmSetOcf ch off) (extract_halves ocf)
  | cop1InitClcw vcid => exact decoded_congr .cop1InitClcw (extract_low_half_zero_append vcid (by decide))
  | cop1ProcessFrame destAvail d =>
    exact congrArg₂ (fun x y => Except.ok (Instr.cop1ProcessFrame x y)) (getLsbD_zero_append_ofBool 15 destAvail)
      (ServiceDescriptor.ofWord_halves_word d)
  | tcSyncGetFrame cltuLen derandomize =>
    exact decoded_congr (.tcSyncGetFrame cltuLen) (getLsbD_low_half_zero_append 31 derandomize)
  | tmSyncSynchronize ch asmLen frameLen randomize =>
    have flag_read : ((frameLen ++ (0#15 ++ BitVec.ofBool randomize)).extractLsb' 0 16).getLsbD 0 = randomize := by
      rw [extract_low_half, getLsbD_zero_append_ofBool]
    exact congrArg₂ (fun x y => Except.ok (Instr.tmSyncSynchronize ch asmLen x y)) (extract_high_half frameLen _)
      flag_read
  | sdlpInitChannel ch cfg => exact decoded_congr (.sdlpInitChannel ch) (ChannelConfig.ofFields_halves cfg)
  | sdlpCompleteFrame ch ocfPresent ocf =>
    exact congrArg₂ (fun x y => Except.ok (Instr.sdlpCompleteFrame ch x y)) (getLsbD_zero_append_ofBool 15 ocfPresent)
      (extract_halves ocf)

/-- Settles O1: every command is well formed, so the hypothesis has no part. -/
theorem decodeAfterEncodeIsIdentity : Obligations.DecodeAfterEncodeIsIdentity :=
  fun i _ => decode_encode i

/-! ### The opcode map -/

section
variable {op : BitVec 8}

/-- A row of the opcode map whose operands are whole fields, or are read from the word as `i` says. -/
theorem opDecodes_of_row {i : Command → Instr}
    (row : ∀ w, decodeFields { op := op, ch := wCh w, a := wA w, b := wB w, c := wC w } = .ok (i w)) :
    OpDecodes op i := by
  intro w h
  subst h
  exact row w

/-- A row with a channel and the low `n` bits of the word. -/
theorem opDecodes_lowBits {n : Nat} (mk : BitVec 8 → BitVec n → Instr) (hn : n ≤ 16)
    (row : ∀ ch a b c, decodeFields { op := op, ch := ch, a := a, b := b, c := c } = .ok (mk ch (c.extractLsb' 0 n))) :
    OpDecodes op (fun w => mk (wCh w) (w.extractLsb' 0 n)) :=
  opDecodes_of_row fun w => (row _ _ _ _).trans (decoded_congr (mk (wCh w)) (extract_wC w (by omega)))

/-- A row with a channel and the lowest bit of the word. -/
theorem opDecodes_flag (mk : BitVec 8 → Bool → Instr)
    (row : ∀ ch a b c, decodeFields { op := op, ch := ch, a := a, b := b, c := c } = .ok (mk ch (c.getLsbD 0))) :
    OpDecodes op (fun w => mk (wCh w) (w.getLsbD 0)) :=
  opDecodes_of_row fun w => (row _ _ _ _).trans (decoded_congr (mk (wCh w)) (getLsbD_wC w (by omega)))

/-- A row with a service descriptor (R55). -/
theorem opDecodes_descriptor (mk : ServiceDescriptor → Instr)
    (row : ∀ ch a b c, decodeFields { op := op, ch := ch, a := a, b := b, c := c } = .ok (mk (.ofWord (b ++ c)))) :
    OpDecodes op (fun w => mk (wDescriptor w)) :=
  opDecodes_of_row fun w => (row _ _ _ _).trans (decoded_congr mk (ServiceDescriptor.ofWord_halves w))

end

theorem opDecodes_bufWr : OpDecodes 0x02 (fun w => .bufWr (wCh w) (wA w) (wB w) (w.extractLsb' 0 8)) :=
  opDecodes_of_row fun w => decoded_congr (.bufWr (wCh w) (wA w) (wB w)) (extract_wC w (by omega))

theorem opDecodes_tmSetOcf : OpDecodes 0x4D (fun w => .tmSetOcf (wCh w) (wA w) (wD w)) :=
  opDecodes_of_row fun w => decoded_congr (.tmSetOcf (wCh w) (wA w)) (wB_append_wC w)

theorem opDecodes_cop1ProcessFrame : OpDecodes 0x51 (fun w => .cop1ProcessFrame (w.getLsbD 32) (wDescriptor w)) :=
  opDecodes_of_row fun w => congrArg₂ (fun x y => Except.ok (Instr.cop1ProcessFrame x y)) (getLsbD_wA w (by omega))
    (ServiceDescriptor.ofWord_halves w)

theorem opDecodes_tcSyncGetFrame : OpDecodes 0x60 (fun w => .tcSyncGetFrame (wA w) (w.getLsbD 0)) :=
  opDecodes_of_row fun w => decoded_congr (.tcSyncGetFrame (wA w)) (getLsbD_wC w (by omega))

theorem opDecodes_tmSyncSynchronize :
    OpDecodes 0x70 (fun w => .tmSyncSynchronize (wCh w) (wA w) (wB w) (w.getLsbD 0)) :=
  opDecodes_of_row fun w => decoded_congr (.tmSyncSynchronize (wCh w) (wA w) (wB w)) (getLsbD_wC w (by omega))

theorem opDecodes_sdlpInitChannel : OpDecodes 0x80 (fun w => .sdlpInitChannel (wCh w) (wConfig w)) :=
  opDecodes_of_row fun w => decoded_congr (.sdlpInitChannel (wCh w)) (ChannelConfig.ofFields_word w)

theorem opDecodes_sdlpCompleteFrame :
    OpDecodes 0x85 (fun w => .sdlpCompleteFrame (wCh w) (w.getLsbD 32) (wD w)) :=
  opDecodes_of_row fun w => congrArg₂ (fun x y => Except.ok (Instr.sdlpCompleteFrame (wCh w) x y))
    (getLsbD_wA w (by omega)) (wB_append_wC w)

/-- Settles O2, row by row: the rows whose operands are whole fields are read off the decoder, and the others need a part of
a field to be a part of the word. -/
theorem opcodeMapDecodesEveryCommand : Obligations.OpcodeMapDecodesEveryCommand := by
  refine ⟨?bufRd, opDecodes_bufWr,
    ?tcGetVersion, ?tcGetBypass, ?tcGetCtlcmd, ?tcGetScid, ?tcGetVcid, ?tcGetLength, ?tcGetSeq, ?tcGetSegFlags, ?tcGetMapid,
    opDecodes_descriptor .tcGetPayloadLen fun _ _ _ _ => rfl, opDecodes_descriptor .tcCopyPayload fun _ _ _ _ => rfl,
    opDecodes_descriptor .tcIsValid fun _ _ _ _ => rfl,
    ?tmGetVersion, ?tmGetScid, ?tmGetVcid, ?tmGetOcfFlag, ?tmGetMcCount, ?tmGetVcCount, ?tmGetSechdrFlag, ?tmGetSyncFlag,
    ?tmGetPktOrderFlag, ?tmGetSegLenId, ?tmGetFhp, ?tmGetSechdrLen, ?tmGetGvcid, ?tmGetMcid,
    opDecodes_lowBits .tmSetVersion (by decide) fun _ _ _ _ => rfl,
    opDecodes_lowBits .tmSetScid (by decide) fun _ _ _ _ => rfl,
    opDecodes_lowBits .tmSetVcid (by decide) fun _ _ _ _ => rfl,
    opDecodes_flag .tmSetOcfFlag fun _ _ _ _ => rfl,
    opDecodes_lowBits .tmSetMcCount (by decide) fun _ _ _ _ => rfl,
    opDecodes_lowBits .tmSetVcCount (by decide) fun _ _ _ _ => rfl,
    opDecodes_flag .tmSetSechdrFlag fun _ _ _ _ => rfl, opDecodes_flag .tmSetSyncFlag fun _ _ _ _ => rfl,
    opDecodes_flag .tmSetPktOrderFlag fun _ _ _ _ => rfl,
    opDecodes_lowBits .tmSetSegLenId (by decide) fun _ _ _ _ => rfl,
    opDecodes_lowBits .tmSetFhp (by decide) fun _ _ _ _ => rfl,
    ?tmSetSechdrLen, ?tmSetSechdrData, opDecodes_tmSetOcf, ?tmUpdateFecf,
    opDecodes_lowBits (fun _ => .cop1InitClcw) (by decide) fun _ _ _ _ => rfl, opDecodes_cop1ProcessFrame,
    ?clcwGetCopEffect, ?clcwGetVcid, ?clcwRd,
    opDecodes_tcSyncGetFrame, opDecodes_tmSyncSynchronize,
    opDecodes_sdlpInitChannel, ?sdlpStartFrame, ?sdlpAddPacket, ?sdlpAddIdlePacket, ?sdlpAddVcaData,
    opDecodes_sdlpCompleteFrame, ?sdlpGetStatus⟩
  all_goals exact opDecodes_of_row fun _ => rfl

/-! ### The reserved opcodes -/

/-- The two answers of the decoder: a command whose opcode is that of the word, or the rejection of a reserved opcode. -/
theorem decodeFields_cases (f : CommandFields) : (∃ i : Instr, decodeFields f = .ok i ∧ i.opcode = f.op) ∨
    (ReservedOp f.op.toNat ∧ decodeFields f = .error (.illegalOp f.op)) := by
  have opcode_of {n : Nat} {x : BitVec 8} (h : f.op.toNat = n) (hx : x.toNat = n) : x = f.op :=
    BitVec.eq_of_toNat_eq (hx.trans h.symm)
  unfold decodeFields
  split
  -- No row of the opcode map applies: what R54 leaves over is the list of R64.
  case h_58 =>
    have bound := f.op.isLt
    refine .inr ⟨?_, rfl⟩
    unfold ReservedOp
    simp only [imp_false] at *
    omega
  all_goals exact .inl ⟨_, rfl, opcode_of ‹_› rfl⟩

/-- No command has a reserved opcode (R54, R64). -/
theorem Instr.not_reservedOp_opcode (i : Instr) : ¬ReservedOp i.opcode.toNat := by
  unfold ReservedOp
  cases i <;> rw [Instr.opcode] <;> decide

/-- Settles O3: the opcode of a decoded command is that of the word, and no command has a reserved one. -/
theorem decoderRejectsExactlyReservedOpcodes : Obligations.DecoderRejectsExactlyReservedOpcodes := by
  intro w
  rcases decodeFields_cases w.fields with ⟨i, decoded, opcode⟩ | ⟨reserved, rejected⟩
  · have assigned : ¬ReservedOp (w.extractLsb' 56 8).toNat := congrArg BitVec.toNat opcode ▸ i.not_reservedOp_opcode
    exact ⟨fun reserved => absurd reserved assigned, fun _ => ⟨i, decoded⟩⟩
  · exact ⟨fun _ => rejected, fun assigned => absurd reserved assigned⟩

/-- Settles O4: the decoder is run on each word. -/
theorem vectorWordsDecode : Obligations.VectorWordsDecode := by
  unfold Obligations.VectorWordsDecode
  decide

end Sys2Proof
end

section
/-! SUPPORT. The word of a command at the port (30_encoding.md R53, R65), and the channel check of the commands that use `ch`
(R51; 40_host_access.md R75, R76). -/

namespace Sys2Proof.Machine

open Claims (Answers UsesChannel)

/-! ### A command presented as a table row -/

/-- A command word has no bit above the 64 of a table row. -/
theorem ofNat_toNat_mod_word (w : Command) : BitVec.ofNat 64 (w.toNat % 2 ^ 64) = w := by
  rw [Nat.mod_eq_of_lt w.isLt, BitVec.ofNat_toNat, BitVec.setWidth_eq]

theorem decodeTableWord_encode (i : Instr) : decodeTableWord 64 (encode i).toNat = some i := by
  rw [decodeTableWord, ofNat_toNat_mod_word, decode_encode]

theorem hostIn_withFetchWord (s : State) (w : Command) :
    (s.withFetchWord 64 w.toNat).hostIn = .command w :: s.hostIn := by
  rw [State.withFetchWord, ofNat_toNat_mod_word]
  rfl

/-- Settles O6: the word is first among the host's inputs, decodes to the command, and is taken by the step. -/
theorem presentedCommandRunsNext : Obligations.PresentedCommandRunsNext :=
  fun i s => ⟨decodeTableWord_encode i, step_of_command (hostIn_withFetchWord s (encode i)) (decode_encode i)⟩

/-! ### A missing channel -/

/-- A command that uses `ch` begins with the channel check (R51). -/
theorem exec_of_usesChannel {i : Instr} (h : UsesChannel i) (s : State) :
    ∃ k, exec i s = withChannel s i.fieldCh k := by
  cases i with
  | bufRd | bufWr | tcGetVersion | tcGetBypass | tcGetCtlcmd | tcGetScid | tcGetVcid | tcGetLength | tcGetSeq
  | tcGetSegFlags | tcGetMapid | tcGetPayloadLen | tcCopyPayload | tcIsValid => simp [UsesChannel, Instr.opcode] at h
  | cop1InitClcw | cop1ProcessFrame | clcwGetCopEffect | clcwGetVcid | clcwRd | tcSyncGetFrame =>
    simp [UsesChannel, Instr.opcode] at h
  | tmGetVersion | tmGetScid | tmGetVcid | tmGetOcfFlag | tmGetMcCount | tmGetVcCount | tmGetSechdrFlag | tmGetSyncFlag
  | tmGetPktOrderFlag | tmGetSegLenId | tmGetFhp | tmGetSechdrLen | tmGetGvcid | tmGetMcid => exact ⟨_, rfl⟩
  | tmSetVersion | tmSetScid | tmSetVcid | tmSetOcfFlag | tmSetMcCount | tmSetVcCount | tmSetSechdrFlag | tmSetSyncFlag
  | tmSetPktOrderFlag | tmSetSegLenId | tmSetFhp | tmSetSechdrLen | tmSetSechdrData | tmSetOcf | tmUpdateFecf =>
    exact ⟨_, rfl⟩
  | tmSyncSynchronize | sdlpInitChannel | sdlpStartFrame | sdlpAddPacket | sdlpAddIdlePacket | sdlpAddVcaData
  | sdlpCompleteFrame | sdlpGetStatus => exact ⟨_, rfl⟩

section
variable {s : State} {ch : BitVec 8} (missing : s.chans[ch.toNat]? = none)
include missing

theorem State.spaceBuffer_frm_of_none : s.spaceBuffer ch .frm = none := by
  rw [State.spaceBuffer, missing]
  rfl

/-- BUF_RD of space 6 (R75). -/
theorem execBufRd_frm_of_none (addr : Half) : execBufRd ch 6 addr s = raise s .invalidArgument := by
  have space : spaceOfId 6 = some .frm := rfl
  simp only [execBufRd, space, State.spaceBuffer_frm_of_none missing]

/-- BUF_WR of space 6 (R76). -/
theorem execBufWr_frm_of_none (addr : Half) (v : Octet) : execBufWr ch 6 addr v s = raise s .invalidArgument := by
  have space : spaceOfId 6 = some .frm := rfl
  simp only [execBufWr, space, spaceHostWritable, State.spaceBuffer_frm_of_none missing, Bool.not_true,
    Bool.false_eq_true, if_false]

end

/-- Settles O23: the commands that use `ch` begin with the channel check, and the two host accesses find no buffer. -/
theorem missingChannelIsInvalidArgument : Obligations.MissingChannelIsInvalidArgument := by
  intro i s h
  have missing : s.chans[i.fieldCh.toNat]? = none := List.getElem?_eq_none h
  refine ⟨fun uses => ?uses, ?bufRd, ?bufWr⟩
  case uses =>
    obtain ⟨k, check⟩ := exec_of_usesChannel uses s
    exact check.trans (withChannel_of_none missing k)
  case bufRd =>
    rintro ch addr rfl
    exact execBufRd_frm_of_none missing addr
  case bufWr =>
    rintro ch addr v rfl
    exact execBufWr_frm_of_none missing addr v

end Sys2Proof.Machine
end

section
/-! SUPPORT. The rejections of host access (40_host_access.md R75 to R77): a command that completes without its access
answers `InvalidArgument`, so an access is rejected when no space passes the checks. -/

namespace Sys2Proof.Machine

open Claims (Answers)

/-- The space id that selects a space (20_memory.md R35). -/
def Space.id : Space → Nat
  | .cltu => 0
  | .tcbuf => 1
  | .paybuf => 2
  | .inbuf => 3
  | .asmbuf => 4
  | .cadu => 5
  | .frm => 6

theorem spaceOfId_some {space : Half} {sp : Space} (h : spaceOfId space = some sp) : space.toNat = sp.id := by
  unfold spaceOfId at h
  split at h
  case h_8 => cases h
  all_goals
    cases h
    assumption

section
variable {s : State} {ch : BitVec 8} {space addr : Half}

/-- BUF_RD is rejected when the address is outside whatever space the id selects (R75). -/
theorem bufRd_answers_invalidArgument
    (outside : ∀ sp, spaceOfId space = some sp → spaceSize s.params sp ≤ addr.toNat) :
    Answers (.bufRd ch space addr) s s .invalidArgument 0 := by
  obtain ⟨t, answered⟩ := execBufRd_answers (s := s) (ch := ch) space addr
  rcases execBufRd_next answered with rfl | ⟨sp, m, hsp, -, inside, -⟩
  · exact answered
  · exact absurd inside (Nat.not_lt.2 (outside sp hsp))

/-- BUF_WR is rejected when the address is outside the space the id selects, if the host may write that space (R76). -/
theorem bufWr_answers_invalidArgument
    (outside : ∀ sp, spaceOfId space = some sp → spaceHostWritable sp = true → spaceSize s.params sp ≤ addr.toNat)
    (v : Octet) : Answers (.bufWr ch space addr v) s s .invalidArgument 0 := by
  obtain ⟨t, answered⟩ := execBufWr_answers (s := s) (ch := ch) space addr v
  rcases execBufWr_next answered with rfl | ⟨sp, m, hsp, writable, -, inside, -⟩
  · exact answered
  · exact absurd inside (Nat.not_lt.2 (outside sp hsp writable))

end

/-- PAYBUF and CADU are the read-only spaces (R76). -/
theorem spaceHostWritable_eq_false {sp : Space} (h : sp.id = 2 ∨ sp.id = 5) : spaceHostWritable sp = false := by
  cases sp with
  | paybuf | cadu => rfl
  | cltu | tcbuf | inbuf | asmbuf | frm => simp [Space.id] at h

/-- Settles O26: an id above 6 selects no space, the address is beyond the space selected, or the space is read-only. -/
theorem bufferAccessRejections : Obligations.BufferAccessRejections := by
  intro ch space addr v s
  refine ⟨fun rejected => ?beyond, fun readOnly => ?readOnly⟩
  case beyond =>
    have outside : ∀ sp, spaceOfId space = some sp → spaceSize s.params sp ≤ addr.toNat := by
      intro sp hsp
      have selected := spaceOfId_some hsp
      cases sp with
      | cltu | tcbuf | paybuf | inbuf | asmbuf | cadu | frm =>
        simp only [Space.id] at selected
        simp only [spaceSize, Params.paybufCap, Params.caduCap]
        omega
    exact ⟨bufRd_answers_invalidArgument outside, bufWr_answers_invalidArgument (fun sp hsp _ => outside sp hsp) v⟩
  case readOnly =>
    refine bufWr_answers_invalidArgument (fun sp hsp writable => ?_) v
    rw [spaceOfId_some hsp] at readOnly
    exact absurd writable (spaceHostWritable_eq_false readOnly ▸ Bool.false_ne_true)

end Sys2Proof.Machine
end

section
/-! SUPPORT. The CRC register (41_prbs_crc.md R84 to R88): the table step against the bit-serial step, the register as a
linear function of the last two octets, and the trailer that TM_UPDATE_FECF leaves in a frame. -/

namespace Sys2Proof.Machine

open Claims (oct serialCrc)

/-! ### The bit-serial step: division of the register, the new bit following it in -/

/-- Polynomial division is linear over exclusive-or. -/
theorem crcShift_xor (poly a b : BitVec 16) : crcShift poly (a ^^^ b) = crcShift poly a ^^^ crcShift poly b := by
  have cancel : a <<< 1 ^^^ poly ^^^ (b <<< 1 ^^^ poly) = a <<< 1 ^^^ b <<< 1 ^^^ (poly ^^^ poly) := by ac_rfl
  unfold crcShift
  rw [BitVec.getLsbD_xor, BitVec.shiftLeft_xor_distrib]
  cases a.getLsbD 15 <;> cases b.getLsbD 15
  case false.false => rfl
  case false.true => exact BitVec.xor_assoc ..
  case true.false => simp only [if_true, Bool.false_eq_true, if_false, Bool.xor_false]; ac_rfl
  case true.true => simpa using cancel.symm

theorem crcShift_of_getLsbD_false {r : BitVec 16} (h : r.getLsbD 15 = false) (poly : BitVec 16) :
    crcShift poly r = r <<< 1 := by
  rw [crcShift, h]; rfl

/-- One serial step: division of the register, then the new bit at its low end (R86). -/
def crcTakeBit (r : BitVec 16) (b : Bool) : BitVec 16 := crcShift 0x1021 r ^^^ (BitVec.ofBool b).setWidth 16

theorem shiftLeft_one_or_bit (r : BitVec 16) (b : Bool) :
    r <<< 1 ||| (BitVec.ofBool b).setWidth 16 = r <<< 1 ^^^ (BitVec.ofBool b).setWidth 16 := by
  apply BitVec.eq_of_getLsbD_eq
  intro i hi
  cases i <;> simp

theorem crcStepSerial_eq_foldl (crc : BitVec 16) (x : Octet) :
    crcStepSerial crc x = (List.range 8).foldl (fun r j => crcTakeBit r (x.getLsbD (7 - j))) crc := by
  unfold crcStepSerial
  congr 1
  funext r j
  simp only [shiftLeft_one_or_bit, crcTakeBit, crcShift]
  split
  · ac_rfl
  · rfl

/-! ### Eight serial steps -/

/-- A window moved one place down a word takes in the word's next bit. -/
theorem shiftRight_succ_take (w : BitVec 16) (n : Nat) :
    (w >>> (n + 1)) <<< 1 ^^^ (BitVec.ofBool (w.getLsbD n)).setWidth 16 = w >>> n := by
  apply BitVec.eq_of_getLsbD_eq
  intro i hi
  cases i with
  | zero => simp
  | succ i => simp [hi, show n + 1 + i = n + (i + 1) by omega]

/-- The register's low octet with the new octet behind it: what the table step keeps of the register (R86). -/
def crcFed (crc : BitVec 16) (x : Octet) : BitVec 16 := (crc <<< 8) ||| x.setWidth 16

theorem getLsbD_crcFed (crc : BitVec 16) (x : Octet) {j : Nat} (h : j < 8) : (crcFed crc x).getLsbD j = x.getLsbD j := by
  simp [crcFed, h, show j < 16 by omega]

/-- The octet that the table step shifts out, and the low octet. -/
theorem crc_split (crc : BitVec 16) (x : Octet) :
    (crc.extractLsb' 8 8).setWidth 16 <<< 8 ^^^ crcFed crc x >>> 8 = crc := by
  apply BitVec.eq_of_getLsbD_eq
  intro i hi
  by_cases h : i < 8
  · simp [crcFed, h, hi, show 8 + i < 16 by omega]
  · simp [crcFed, h, hi, show i - 8 < 8 by omega, show 8 + (i - 8) = i by omega, show ¬8 + i < 16 by omega]

/-- After `k` serial steps the octet shifted out has been divided `k` times, and the window has moved `k` places: the
window's high bits are clear, so nothing of it is divided. -/
theorem foldl_crcTakeBit (crc : BitVec 16) (x : Octet) {k : Nat} (hk : k ≤ 8) :
    (List.range k).foldl (fun r j => crcTakeBit r (x.getLsbD (7 - j))) crc =
      (List.range k).foldl (fun r _ => crcShift 0x1021 r) ((crc.extractLsb' 8 8).setWidth 16 <<< 8) ^^^
        crcFed crc x >>> (8 - k) := by
  induction k with
  | zero => exact (crc_split crc x).symm
  | succ k ih =>
    have place : 8 - k = 7 - k + 1 := by omega
    have window_clear : (crcFed crc x >>> (7 - k + 1)).getLsbD 15 = false := by simp
    have next_bit : x.getLsbD (7 - k) = (crcFed crc x).getLsbD (7 - k) := (getLsbD_crcFed crc x (by omega)).symm
    simp only [List.range_succ, List.foldl_append, List.foldl_cons, List.foldl_nil, ih (by omega), place]
    rw [crcTakeBit, crcShift_xor, crcShift_of_getLsbD_false window_clear, BitVec.xor_assoc, next_bit,
      shiftRight_succ_take, show 8 - (k + 1) = 7 - k by omega]

/-- Settles O36: after eight serial steps the octet shifted out has become its table entry, and the window is the low
octet with the new one. -/
theorem crcTableStepIsBitSerial : Obligations.CrcTableStepIsBitSerial := by
  intro crc x
  rw [crcStepSerial_eq_foldl, foldl_crcTakeBit crc x (Nat.le_refl 8)]
  exact BitVec.xor_comm ..

theorem serialCrc_eq_crcOf (bs : List Octet) : serialCrc bs = crcOf bs := by
  have steps : crcStepSerial = crcStep := funext₂ fun crc x => (crcTableStepIsBitSerial crc x).symm
  rw [serialCrc, crcOf, steps]

/-! ### The last two octets -/

theorem crcFed_eq_xor (crc : BitVec 16) (x : Octet) : crcFed crc x = crc <<< 8 ^^^ x.setWidth 16 := by
  apply BitVec.eq_of_getLsbD_eq
  intro i hi
  by_cases h : i < 8
  · simp [crcFed, h, hi]
  · have beyond : x.getLsbD i = false := BitVec.getLsbD_of_ge x i (by omega)
    simp [crcFed, hi, beyond]

theorem crcStep_eq_xor (crc : BitVec 16) (x : Octet) :
    crcStep crc x = crc <<< 8 ^^^ x.setWidth 16 ^^^ crctab (crc.extractLsb' 8 8) :=
  congrArg (· ^^^ _) (crcFed_eq_xor crc x)

/-- An octet enters the register without being divided. -/
theorem crcStep_eq_zero_step_xor (crc : BitVec 16) (x : Octet) : crcStep crc x = crcStep crc 0 ^^^ x.setWidth 16 := by
  simp only [crcStep_eq_xor, BitVec.setWidth_zero, BitVec.ofNat_eq_ofNat, BitVec.xor_zero]
  ac_rfl

/-- An octet at the low end of the register is not shifted out by the next step. -/
theorem crcStep_xor_octet (crc : BitVec 16) (x y : Octet) :
    crcStep (crc ^^^ x.setWidth 16) y = crcStep crc y ^^^ x.setWidth 16 <<< 8 := by
  have out : (crc ^^^ x.setWidth 16).extractLsb' 8 8 = crc.extractLsb' 8 8 := by
    apply BitVec.eq_of_getLsbD_eq
    intro i hi
    simp [hi]
  rw [crcStep_eq_xor, crcStep_eq_xor, out, BitVec.shiftLeft_xor_distrib]
  ac_rfl

theorem append_eq_xor (x y : Octet) : (x ++ y : BitVec 16) = x.setWidth 16 <<< 8 ^^^ y.setWidth 16 := by
  apply BitVec.eq_of_getLsbD_eq
  intro i hi
  rw [BitVec.getLsbD_append]
  by_cases h : i < 8
  · simp [h, hi]
  · have beyond : y.getLsbD i = false := BitVec.getLsbD_of_ge y i (by omega)
    simp [h, hi, beyond, show i - 8 < 8 by omega]

/-- Two octets at the end of a sequence leave the register that two zero octets leave, exclusive-ored with them. -/
theorem crcOf_append_pair (bs : List Octet) (x y : Octet) :
    crcOf (bs ++ [x, y]) = crcOf (bs ++ [0, 0]) ^^^ (x ++ y : BitVec 16) := by
  simp only [crcOf, List.foldl_append, List.foldl_cons, List.foldl_nil]
  generalize bs.foldl crcStep 0xFFFF = r
  rw [crcStep_eq_zero_step_xor r x, crcStep_xor_octet, crcStep_eq_zero_step_xor _ y, append_eq_xor]
  ac_rfl

/-- The CRC of octets and two zero octets, put in the place of the zeros, checks to zero (R88 a). -/
theorem crcOf_append_crc (bs : List Octet) :
    crcOf (bs ++ [(crcOf (bs ++ [0, 0])).extractLsb' 8 8, (crcOf (bs ++ [0, 0])).extractLsb' 0 8]) = 0 := by
  have halves (r : BitVec 16) : r.extractLsb' 8 8 ++ r.extractLsb' 0 8 = r :=
    (extract_append_extract r 0 8 8).trans (extract_self r)
  rw [crcOf_append_pair, halves, BitVec.xor_self]
  rfl

/-! ### The trailer in a frame (R87) -/

/-- The octets before a trailer and the trailer, of a memory that holds the same octets before it. -/
theorem Memory.readBytes_trailer {m m' : Memory} {off : Nat} (h : ∀ a < off, m'.read a = m.read a) :
    m'.readBytes 0 (off + 2) = m.readBytes 0 off ++ [m'.read off, m'.read (off + 1)] := by
  have before : m'.readBytes 0 off = m.readBytes 0 off :=
    Memory.readBytes_congr fun a ha => by simpa using h a ha
  rw [Memory.readBytes_add, before, Nat.zero_add]
  rfl

theorem read_zeroTrailer (m : Memory) (off a : Nat) :
    (zeroTrailer m off).read a = if a = off ∨ a = off + 1 then 0 else m.read a := by
  by_cases high : a = off
  · simp [zeroTrailer, high]
  · by_cases low : a = off + 1 <;> simp [zeroTrailer, high, low]

theorem trailerCrc_eq (m : Memory) (off : Nat) : trailerCrc m off = crcOf (m.readBytes 0 off ++ [0, 0]) := by
  have before : ∀ a < off, (zeroTrailer m off).read a = m.read a := fun a ha => by
    rw [read_zeroTrailer, if_neg (by omega)]
  rw [trailerCrc, Memory.readBytes_trailer before]
  simp [read_zeroTrailer]

/-- The frame after `update_crc`: the CRC big-endian in the trailer, every other octet as it was. -/
theorem read_updateCrc (m : Memory) (off a : Nat) : (updateCrc m off).read a =
    if a = off then (trailerCrc m off).extractLsb' 8 8
    else if a = off + 1 then (trailerCrc m off).extractLsb' 0 8 else m.read a := by
  by_cases high : a = off
  · simp [updateCrc, high]
  · by_cases low : a = off + 1 <;> simp [updateCrc, read_zeroTrailer, high, low]

theorem readBytes_updateCrc (m : Memory) (off : Nat) : (updateCrc m off).readBytes 0 (off + 2) =
    m.readBytes 0 off ++ [(trailerCrc m off).extractLsb' 8 8, (trailerCrc m off).extractLsb' 0 8] := by
  have before : ∀ a < off, (updateCrc m off).read a = m.read a := fun a ha => by
    rw [read_updateCrc, if_neg (by omega), if_neg (by omega)]
  rw [Memory.readBytes_trailer before]
  simp [read_updateCrc]

theorem crcOf_updateCrc (m : Memory) (off : Nat) : crcOf ((updateCrc m off).readBytes 0 (off + 2)) = 0 := by
  rw [readBytes_updateCrc, trailerCrc_eq]
  exact crcOf_append_crc _

theorem oct_updateCrc (m : Memory) (off a : Nat) : oct (updateCrc m off) a =
    if a = off then (trailerCrc m off).toNat / 256
    else if a = off + 1 then (trailerCrc m off).toNat % 256 else oct m a := by
  have fits := (trailerCrc m off).isLt
  simp only [oct, read_updateCrc]
  split_ifs
  · rw [toNat_extract]; omega
  · rw [toNat_extract]; omega
  · rfl

/-! ### TM_UPDATE_FECF -/

theorem exec_tmUpdateFecf (ch : BitVec 8) (off : Half) (s : State) :
    exec (.tmUpdateFecf ch off) s = execTmUpdateFecf ch off s := rfl

/-- On a channel of the block, only the bounds are left to check (R87). -/
theorem execTmUpdateFecf_of_some {s : State} {ch : BitVec 8} {c : Channel} (hc : s.chans[ch.toNat]? = some c)
    (off : Half) : execTmUpdateFecf ch off s =
      if 6 ≤ off.toNat ∧ off.toNat + 2 ≤ s.params.frameCap then done (s.setFrame ch c (updateCrc c.frm off.toNat)) 0
      else raise s .invalidLength := by
  rw [execTmUpdateFecf, withChannel_of_some hc]
  split_ifs <;> simp_all [crcBoundsOk]

/-- Settles O35: the bounds decide between the error and the updated frame, and the model's CRC is the bit-serial one. -/
theorem tmUpdateFecfWritesTheCrc : Obligations.TmUpdateFecfWritesTheCrc := by
  intro ch off c s hc
  have run := (exec_tmUpdateFecf ch off s).trans (execTmUpdateFecf_of_some hc off)
  refine ⟨fun outside => ?error, fun six_le fits => ?writes⟩
  case error =>
    rw [if_neg (by omega)] at run
    exact run
  case writes =>
    rw [if_pos ⟨six_le, fits⟩] at run
    refine ⟨updateCrc c.frm off.toNat, run, fun a => ?_⟩
    rw [serialCrc_eq_crcOf, ← trailerCrc_eq]
    exact oct_updateCrc c.frm off.toNat a

theorem statusCode_eq_zero {st : Status} (h : statusCode st = 0) : st = .ok := by
  cases st with
  | ok => rfl
  | _ => exact absurd h (by decide)

/-- Settles O37: a command that answers OK left the updated frame in the channel. -/
theorem updatedFrameChecksToZero : Obligations.UpdatedFrameChecksToZero := by
  intro ch off s t c h status hc
  rcases execTmUpdateFecf_next h with ⟨st, failed, rfl⟩ | ⟨c₀, hc₀, -, -, rfl⟩
  · exact absurd (statusCode_eq_zero status) failed
  · rw [State.respond_chans, State.setFrame_chans, List.getElem?_set_self', hc₀] at hc
    obtain rfl := Option.some.inj hc
    exact crcOf_updateCrc c₀.frm off.toNat

/-- Settles O38: the register is run over the document's octets, and the table over the entries it lists. -/
theorem crcSelfTest : Obligations.CrcSelfTest := by
  refine ⟨?register, ?first_entries, ?entry_128, ?entry_255⟩ <;> decide

end Sys2Proof.Machine
end

section
/-! SUPPORT. The PRBS window and the whitener (41_prbs_crc.md R82 to R85): both forms of the window, bit by bit, as bits
of the 255-bit cyclic sequence; exclusive-or with a window as an involution. -/

namespace Sys2Proof.Machine

/-! ### The window, bit by bit (R82) -/

/-- Bits shifted in at the low end: the last one in is bit 0. -/
theorem getLsbD_shiftIn (f : Nat → Bool) (n : Nat) {k : Nat} (hk : k < 8) :
    ((List.range n).foldl (fun (w : Octet) j => (w <<< 1) ||| (BitVec.ofBool (f j)).setWidth 8) (0 : Octet)).getLsbD k =
      (decide (k < n) && f (n - 1 - k)) := by
  induction n generalizing k with
  | zero => simp
  | succ n ih =>
    simp only [List.range_succ, List.foldl_append, List.foldl_cons, List.foldl_nil, BitVec.getLsbD_or]
    cases k with
    | zero => simp
    | succ k =>
      rw [BitVec.getLsbD_shiftLeft, Nat.add_sub_cancel, ih (show k < 8 by omega)]
      simp [hk, show n - 1 - k = n - (k + 1) by omega]

theorem getLsbD_prbsWindow (seq : List Octet) (i : Nat) {j : Nat} (hj : j < 8) :
    (prbsWindow seq i).getLsbD (7 - j) = prbsBit seq ((8 * i + j) % 255) := by
  have place : 8 - 1 - (7 - j) = j := by omega
  rw [prbsWindow, getLsbD_shiftIn (fun j => prbsBit seq ((8 * i + j) % 255)) 8 (by omega), place,
    decide_eq_true (by omega), Bool.true_and]

/-! ### The lookup, bit by bit (R83) -/

/-- Bit `j` of octet `b` of a table, the most significant bit first. -/
theorem prbsBit_of_octet (seq : List Octet) {k b j : Nat} (hk : k = 8 * b + j) (hj : j < 8) :
    prbsBit seq k = (seq.getD b 0).getLsbD (7 - j) := by
  rw [prbsBit, show k / 8 = b by omega, show k % 8 = j by omega]

/-- Eight bits from bit `s` of two octets in a row. -/
theorem getLsbD_two_octets (x y : Octet) {s j : Nat} (hs : s < 8) (hj : j < 8) :
    (x <<< s ||| y >>> (8 - s)).getLsbD (7 - j) =
      if s + j < 8 then x.getLsbD (7 - (s + j)) else y.getLsbD (7 - (s + j - 8)) := by
  split_ifs with h
  · have beyond : y.getLsbD (8 - s + (7 - j)) = false := BitVec.getLsbD_of_ge y _ (by omega)
    simp [-BitVec.getLsbD_eq_getElem, beyond, show 7 - j < 8 by omega, show ¬7 - j < s by omega,
      show 7 - j - s = 7 - (s + j) by omega]
  · simp [show 7 - j < s by omega, show 8 - s + (7 - j) = 7 - (s + j - 8) by omega]

/-- A table whose bit 255 is bit 0 of the cyclic sequence: the last octet ends with the first bit of the next round. -/
def PrbsClosed (seq : List Octet) : Prop := prbsBit seq 255 = prbsBit seq 0

/-- A closed table need not be taken cyclically up to bit 255, which a window from bit 248 reaches. -/
theorem prbsBit_mod_of_le {seq : List Octet} (closed : PrbsClosed seq) {k : Nat} (hk : k ≤ 255) :
    prbsBit seq (k % 255) = prbsBit seq k := by
  rcases Nat.lt_or_eq_of_le hk with h | rfl
  · rw [Nat.mod_eq_of_lt h]
  · exact closed.symm

theorem getLsbD_prbsWindowLookup {seq : List Octet} (closed : PrbsClosed seq) (i : Nat) {j : Nat} (hj : j < 8) :
    (prbsWindowLookup seq i).getLsbD (7 - j) = prbsBit seq ((8 * i + j) % 255) := by
  have from_off : (8 * i + j) % 255 = (8 * i % 255 + j) % 255 := (Nat.mod_add_mod _ _ _).symm
  have off_lt : 8 * i % 255 < 255 := Nat.mod_lt _ (by omega)
  rw [from_off]
  unfold prbsWindowLookup
  generalize 8 * i % 255 = off at off_lt
  dsimp only
  split_ifs with aligned inside
  · rw [prbsBit_mod_of_le closed (by omega), prbsBit_of_octet seq (b := off / 8) (j := j) (by omega) hj]
  · rw [prbsBit_mod_of_le closed (by omega), getLsbD_two_octets _ _ (by omega) hj]
    split_ifs with one
    · exact (prbsBit_of_octet seq (by omega) one).symm
    · exact (prbsBit_of_octet seq (by omega) (by omega)).symm
  · rw [getLsbD_two_octets _ _ (by omega) hj]
    split_ifs with one
    · rw [prbsBit_mod_of_le closed (by omega)]
      exact (prbsBit_of_octet seq (by omega) one).symm
    · have wrapped : (off + j) % 255 = 8 * 0 + (off % 8 + j - 7) := by omega
      have place : 7 - (off % 8 + j - 8) = 7 - (off % 8 + j - 7) + 1 := by omega
      rw [prbsBit_of_octet seq wrapped (by omega), place]
      simp [-BitVec.getLsbD_eq_getElem, show 7 - (off % 8 + j - 7) + 1 < 8 by omega]

/-- The two forms of the window agree on every closed table, not only on the two of R17. -/
theorem prbsWindow_eq_lookup {seq : List Octet} (closed : PrbsClosed seq) (i : Nat) :
    prbsWindow seq i = prbsWindowLookup seq i := by
  apply BitVec.eq_of_getLsbD_eq
  intro k hk
  have bit : k = 7 - (7 - k) := by omega
  rw [bit, getLsbD_prbsWindow seq i (by omega), getLsbD_prbsWindowLookup closed i (by omega)]

theorem prbsClosed_prbsTm : PrbsClosed prbsTm := by unfold PrbsClosed; decide

theorem prbsClosed_prbsTc : PrbsClosed prbsTc := by unfold PrbsClosed; decide

/-- Settles O40: both tables are closed. -/
theorem prbsWindowIsTheTableLookup : Obligations.PrbsWindowIsTheTableLookup :=
  fun i => ⟨prbsWindow_eq_lookup prbsClosed_prbsTm i, prbsWindow_eq_lookup prbsClosed_prbsTc i⟩

/-! ### The whitener (R85) -/

theorem getElem?_xorWithPrbs (bs seq : List Octet) (k : Nat) :
    (xorWithPrbs bs seq)[k]? = (bs[k]?).map (fun b => b ^^^ prbsWindow seq k) := by
  rw [xorWithPrbs, getElem?_xorPrbsFrom, Nat.zero_add]

/-- From any index on, a second exclusive-or with the windows undoes the first. -/
theorem xorPrbsFrom_xorPrbsFrom (seq : List Octet) (i : Nat) (bs : List Octet) :
    xorPrbsFrom seq i (xorPrbsFrom seq i bs) = bs := by
  induction bs generalizing i with
  | nil => rfl
  | cons b bs ih => simp only [xorPrbsFrom, ih, BitVec.xor_assoc, BitVec.xor_self, BitVec.xor_zero]

/-- Settles O41, octet by octet and then by the involution. -/
theorem whitenerXorsTheWindow : Obligations.WhitenerXorsTheWindow := by
  intro bs seq
  refine ⟨length_xorWithPrbs bs seq, fun i b hb => ?_, xorPrbsFrom_xorPrbsFrom seq 0 bs⟩
  rw [getElem?_xorWithPrbs, hb]
  rfl

end Sys2Proof.Machine
end

section
/-! SUPPORT. The TC codec (42_tctf.md R97 to R108): the header fields as numbers, the payload length and the octets it copies,
and validity as the clauses of R108. -/

namespace Sys2Proof.Machine

open Claims (Answers Copied ValidFor bypassBit ctlBit frameLength mapValue oct payLen payOff)

/-! ### The header fields as numbers (30_encoding.md R57) -/

section
variable (h : Memory)

theorem toNat_tcVersion : (tcVersion h).toNat = oct h 0 / 64 := by
  have octet := (h.read 0).isLt
  rw [tcVersion, toNat_extract, oct]
  omega

theorem toNat_tcBypass : (tcBypass h).toNat = bypassBit h := toNat_getLsbD _ 5

theorem toNat_tcCtlCmd : (tcCtlCmd h).toNat = ctlBit h := toNat_getLsbD _ 4

theorem toNat_tcScid : (tcScid h).toNat = (oct h 0 / 4 % 4) * 256 + oct h 1 := by
  rw [tcScid, toNat_append, toNat_extract]
  rfl

theorem toNat_tcVcid : (tcVcid h).toNat = oct h 2 / 4 := by
  have octet := (h.read 2).isLt
  rw [tcVcid, toNat_extract, oct]
  omega

theorem tcLength_eq_frameLength : tcLength h = frameLength h := by
  rw [tcLength, tcLengthField, toNat_append, toNat_extract, Nat.pow_zero, Nat.div_one]
  rfl

theorem tcCtlCmd_iff : tcCtlCmd h = true ↔ ctlBit h = 1 := getLsbD_eq_true _ 4

theorem tcBypass_eq_false_iff : tcBypass h = false ↔ bypassBit h = 0 := getLsbD_eq_false _ 5

/-- A field of the segment header, for which a control frame answers the sentinel (R104, R105). -/
theorem toNat_sentinel_or_field {n : Nat} (hn : n ≤ 8) (field : BitVec n) :
    (if tcCtlCmd h then noSegmentHeader else field.setWidth 8).toNat = if ctlBit h = 1 then 255 else field.toNat := by
  simp only [tcCtlCmd_iff]
  split
  · rfl
  · exact BitVec.toNat_setWidth_of_le hn

theorem toNat_tcSegFlags : (tcSegFlags h).toNat = if ctlBit h = 1 then 255 else oct h 5 / 64 := by
  have octet := (h.read 5).isLt
  have field : ((h.read 5).extractLsb' 6 2).toNat = oct h 5 / 64 := by
    rw [toNat_extract, oct]
    omega
  rw [tcSegFlags, toNat_sentinel_or_field h (by decide), field]

theorem toNat_tcMapId : (tcMapId h).toNat = mapValue h := by
  have field : ((h.read 5).extractLsb' 0 6).toNat = oct h 5 % 64 := by
    rw [toNat_extract, Nat.pow_zero, Nat.div_one]
    rfl
  rw [tcMapId, toNat_sentinel_or_field h (by decide), field, mapValue]

end

/-! ### The accessors -/

/-- A command that ends with `(OK, x)`, `x` widened to the response value, answers the number `x` is. -/
theorem answers_ok_of_done {i : Instr} {s u : State} {w n : Nat} {x : BitVec w}
    (completes : exec i s = done u (x.setWidth 32)) (value : x.toNat = n) : Answers i s u .ok n := by
  rw [setWidth_eq_ofNat x value] at completes
  exact completes

/-- Settles O28: each accessor answers its field, and the field is the number that the statement gives. -/
theorem tcAccessorsReadTheirFields : Obligations.TcAccessorsReadTheirFields := by
  intro s
  refine ⟨?version, ?bypass, ?ctlcmd, ?scid, ?vcid, ?length, ?seq, ?segFlags, ?mapid⟩
  case version => exact answers_ok_of_done rfl (toNat_tcVersion s.tcbuf)
  case bypass => exact answers_ok_of_done rfl ((toNat_ofBool _).trans (toNat_tcBypass s.tcbuf))
  case ctlcmd => exact answers_ok_of_done rfl ((toNat_ofBool _).trans (toNat_tcCtlCmd s.tcbuf))
  case scid => exact answers_ok_of_done rfl (toNat_tcScid s.tcbuf)
  case vcid => exact answers_ok_of_done rfl (toNat_tcVcid s.tcbuf)
  case length => exact congrArg (fun n => done s (BitVec.ofNat 32 n)) (tcLength_eq_frameLength s.tcbuf)
  case seq => exact answers_ok_of_done (x := tcSeq s.tcbuf) rfl rfl
  case segFlags => exact answers_ok_of_done rfl (toNat_tcSegFlags s.tcbuf)
  case mapid => exact answers_ok_of_done rfl (toNat_tcMapId s.tcbuf)

/-! ### The payload (R106, R107) -/

theorem tcPayloadOffset_eq_payOff (d : ServiceDescriptor) : tcPayloadOffset d = payOff d := by
  rw [tcPayloadOffset, payOff]
  cases d.hasSeg <;> rfl

theorem tcOverhead_eq (d : ServiceDescriptor) : tcOverhead d = payOff d + 2 * d.hasFecf.toNat := by
  rw [tcOverhead, tcPayloadOffset_eq_payOff]
  cases d.hasFecf <;> rfl

/-- The model's clamped difference is the subtraction of natural numbers. -/
theorem tcPayloadLen_eq_payLen (h : Memory) (d : ServiceDescriptor) : tcPayloadLen h d = payLen h d := by
  rw [tcPayloadLen, payLen, tcLength_eq_frameLength, tcOverhead_eq]
  split <;> omega

theorem getD_tcPayload (h : Memory) (d : ServiceDescriptor) {x : Nat} (hx : x < payLen h d) :
    (tcPayload h d).getD x 0 = h.read (payOff d + x) := by
  rw [List.getD_eq_getElem?_getD, tcPayload, Memory.getElem?_readBytes, tcPayloadLen_eq_payLen, if_pos hx,
    tcPayloadOffset_eq_payOff, Option.getD_some]

theorem copied_copyPayload (s : State) (d : ServiceDescriptor) : Copied s d (s.copyPayload d).paybuf := by
  intro x
  rw [State.copyPayload_paybuf, Memory.read_writeBytes, length_tcPayload, tcPayloadLen_eq_payLen, Nat.zero_add,
    Nat.sub_zero]
  simp only [Nat.zero_le, true_and]
  split
  · exact getD_tcPayload s.tcbuf d ‹_›
  · rfl

/-- Settles O29: both commands answer the payload length, and the copy is the state with `PAYBUF` and `pay_len` written. -/
theorem tcPayloadIsMeasuredAndCopied : Obligations.TcPayloadIsMeasuredAndCopied := by
  intro d s
  rw [← tcPayloadLen_eq_payLen]
  exact ⟨rfl, (s.copyPayload d).paybuf, rfl, copied_copyPayload s d⟩

/-! ### Validity (R108) -/

section
variable (h : Memory) (d : ServiceDescriptor)

theorem tcIdsOk_iff : tcIdsOk h d = true ↔
    oct h 0 / 64 = d.version.toNat ∧ (oct h 0 / 4 % 4) * 256 + oct h 1 = d.scid.toNat := by
  rw [tcIdsOk, Bool.and_eq_true, beq_iff_eq, beq_iff_eq, ← BitVec.toNat_inj, ← BitVec.toNat_inj, toNat_tcVersion,
    toNat_tcScid]

theorem tcVcid_eq_iff : (tcVcid h == d.vcid) = true ↔ oct h 2 / 4 = d.vcid.toNat := by
  rw [beq_iff_eq, ← BitVec.toNat_inj, toNat_tcVcid]

theorem tcMapId_eq_iff : (tcMapId h == d.mapid) = true ↔ mapValue h = d.mapid.toNat := by
  rw [beq_iff_eq, ← BitVec.toNat_inj, toNat_tcMapId]

theorem tcChannelOk_iff : tcChannelOk h d = true ↔
    d.svcType = .mcf ∨ (d.svcType = .access ∧ oct h 2 / 4 = d.vcid.toNat) ∨
      (d.svcType = .nonAccess ∧ oct h 2 / 4 = d.vcid.toNat ∧ mapValue h = d.mapid.toNat) := by
  cases service : d.svcType with
  | mcf => simp [tcChannelOk, service]
  | access => simp [tcChannelOk, service, ← tcVcid_eq_iff]
  | nonAccess => simp [tcChannelOk, service, ← tcVcid_eq_iff, ← tcMapId_eq_iff]
  | reserved => simp [tcChannelOk, service]

theorem tcIllegal_iff : tcIllegal h = true ↔ ctlBit h = 1 ∧ bypassBit h = 0 := by
  rw [tcIllegal, Bool.and_eq_true, Bool.not_eq_true', tcCtlCmd_iff, tcBypass_eq_false_iff]

/-- The model's validity test is the clauses of R108. -/
theorem tcValid_iff_validFor : tcValid h d = true ↔ ValidFor h d := by
  rw [tcValid, Bool.and_eq_true, Bool.and_eq_true, Bool.not_eq_true', ← Bool.not_eq_true, tcIdsOk_iff, tcChannelOk_iff,
    tcIllegal_iff, ValidFor, and_assoc, and_assoc]

end

theorem tcIsValid_answers (d : ServiceDescriptor) (s : State) :
    Answers (.tcIsValid d) s s .ok (tcValid s.tcbuf d).toNat := answers_ok_of_done rfl (toNat_ofBool _)

/-- Settles O30: the command answers the validity test, which decides the clauses. -/
theorem tcIsValidFollowsTheClauses : Obligations.TcIsValidFollowsTheClauses := by
  intro d s
  have answers := tcIsValid_answers d s
  rw [← tcValid_iff_validFor]
  refine ⟨fun valid => ?_, fun invalid => ?_⟩
  · rw [valid] at answers
    exact answers
  · rw [eq_false_of_ne_true invalid] at answers
    exact answers

end Sys2Proof.Machine
end

section
/-! SUPPORT. The TM codec (43_tmtf.md R115 to R144): the header fields as numbers, a field written into an octet as
arithmetic, and what each setter leaves at every address of the frame buffer. -/

namespace Sys2Proof.Machine

open Claims (Answers WritesFrame oct)

theorem oct_lt (m : Memory) (a : Nat) : oct m a < 256 := (m.read a).isLt

/-! ### The header fields as numbers (30_encoding.md R58) -/

section
variable (f : Memory)

theorem toNat_tmVersion : (tmVersion f).toNat = oct f 0 / 64 := by
  have octet := oct_lt f 0
  rw [tmVersion, toNat_extract, ← oct]
  omega

theorem toNat_tmScid : (tmScid f).toNat = (oct f 0 % 64) * 16 + oct f 1 / 16 := by
  have octet := oct_lt f 1
  rw [tmScid, toNat_append, toNat_extract, toNat_extract, ← oct, ← oct]
  omega

theorem toNat_tmVcid : (tmVcid f).toNat = oct f 1 / 2 % 8 := toNat_extract _ 1 3

theorem toNat_tmOcfFlag : (tmOcfFlag f).toNat = oct f 1 % 2 := by
  rw [tmOcfFlag, toNat_getLsbD, Nat.pow_zero, Nat.div_one, oct]

theorem toNat_tmSechdrFlag : (tmSechdrFlag f).toNat = oct f 4 / 128 := by
  have octet := oct_lt f 4
  rw [tmSechdrFlag, toNat_getLsbD, ← oct]
  omega

theorem toNat_tmSyncFlag : (tmSyncFlag f).toNat = oct f 4 / 64 % 2 := toNat_getLsbD _ 6

theorem toNat_tmPktOrderFlag : (tmPktOrderFlag f).toNat = oct f 4 / 32 % 2 := toNat_getLsbD _ 5

theorem toNat_tmSegLenId : (tmSegLenId f).toNat = oct f 4 / 8 % 4 := toNat_extract _ 3 2

theorem toNat_tmFhp : (tmFhp f).toNat = (oct f 4 % 8) * 256 + oct f 5 := by
  rw [tmFhp, toNat_append, toNat_extract, Nat.pow_zero, Nat.div_one]
  rfl

theorem toNat_tmSechdrLen : (tmSechdrLen f).toNat = oct f 6 % 64 := by
  rw [tmSechdrLen, toNat_extract, Nat.pow_zero, Nat.div_one]
  rfl

theorem toNat_tmMcid : (tmMcid f).toNat = oct f 0 * 16 + oct f 1 / 16 := by
  rw [tmMcid, toNat_append, toNat_tmVersion, toNat_tmScid]
  omega

/-- Below the spacecraft id, `F[1]` holds the virtual channel id and the OCF flag, which the global id leaves out. -/
theorem toNat_tmGvcid : (tmGvcid f).toNat = (oct f 0 * 256 + oct f 1) / 2 := by
  have ids : tmGvcid f = tmMcid f ++ tmVcid f := rfl
  rw [ids, toNat_append, toNat_tmMcid, toNat_tmVcid]
  omega

theorem tmOcfFlag_iff : tmOcfFlag f = true ↔ oct f 1 % 2 = 1 := by
  rw [← toNat_tmOcfFlag]
  cases tmOcfFlag f <;> decide

theorem tmSechdrFlag_iff : tmSechdrFlag f = true ↔ oct f 4 / 128 = 1 := by
  rw [← toNat_tmSechdrFlag]
  cases tmSechdrFlag f <;> decide

end

/-! ### The getters -/

section
variable {s : State} {ch : BitVec 8} {c : Channel} (hc : s.chans[ch.toNat]? = some c) {i : Instr} {n : Nat}
include hc

/-- A getter of a field, on a channel of the block, answers the number that the field is. -/
theorem answers_of_tmGet {w : Nat} {field : Memory → BitVec w}
    (getter : exec i s = tmGet ch (fun f => (field f).setWidth 32) s) (value : (field c.frm).toNat = n) :
    Answers i s s .ok n :=
  answers_ok_of_done (getter.trans (withChannel_of_some hc _)) value

/-- A getter of a flag, likewise. -/
theorem answers_of_tmGet_flag {flag : Memory → Bool}
    (getter : exec i s = tmGet ch (fun f => (BitVec.ofBool (flag f)).setWidth 32) s)
    (value : (flag c.frm).toNat = n) : Answers i s s .ok n :=
  answers_of_tmGet hc getter ((toNat_ofBool _).trans value)

end

/-- Settles O31: each getter answers its field, and the field is the number that the statement gives. -/
theorem tmGettersReadTheirFields : Obligations.TmGettersReadTheirFields := by
  intro ch c s hc
  refine ⟨?version, ?scid, ?vcid, ?ocfFlag, ?mcCount, ?vcCount, ?sechdrFlag, ?syncFlag, ?pktOrderFlag, ?segLenId,
    ?fhp, ?sechdrLen, ?gvcid, ?mcid⟩
  case version => exact answers_of_tmGet hc rfl (toNat_tmVersion c.frm)
  case scid => exact answers_of_tmGet hc rfl (toNat_tmScid c.frm)
  case vcid => exact answers_of_tmGet hc rfl (toNat_tmVcid c.frm)
  case ocfFlag => exact answers_of_tmGet_flag hc rfl (toNat_tmOcfFlag c.frm)
  case mcCount => exact answers_of_tmGet (field := tmMcCount) hc rfl rfl
  case vcCount => exact answers_of_tmGet (field := tmVcCount) hc rfl rfl
  case sechdrFlag => exact answers_of_tmGet_flag hc rfl (toNat_tmSechdrFlag c.frm)
  case syncFlag => exact answers_of_tmGet_flag hc rfl (toNat_tmSyncFlag c.frm)
  case pktOrderFlag => exact answers_of_tmGet_flag hc rfl (toNat_tmPktOrderFlag c.frm)
  case segLenId => exact answers_of_tmGet hc rfl (toNat_tmSegLenId c.frm)
  case fhp => exact answers_of_tmGet hc rfl (toNat_tmFhp c.frm)
  case sechdrLen => exact answers_of_tmGet hc rfl (toNat_tmSechdrLen c.frm)
  case gvcid => exact answers_of_tmGet hc rfl (toNat_tmGvcid c.frm)
  case mcid => exact answers_of_tmGet hc rfl (toNat_tmMcid c.frm)

/-! ### A field written into an octet -/

/-- The mask that keeps an octet but for the `n` bits from bit `k` up. -/
@[reducible] def ClearsField (mask : Octet) (k n : Nat) : Prop :=
  ∀ j < 8, mask.getLsbD j = !(decide (k ≤ j) && decide (j < k + n))

/-- Masking a field out and putting a value there: the bits above, the value, the bits below. -/
theorem masked_or_field_eq_append {mask : Octet} {k n : Nat} (clears : ClearsField mask k n) (x : Octet)
    (v : BitVec n) : (x &&& mask) ||| (v.setWidth 8 <<< k) =
      (x.extractLsb' (k + n) (8 - (k + n)) ++ v ++ x.extractLsb' 0 k).setWidth 8 := by
  apply BitVec.eq_of_getLsbD_eq
  intro j hj
  simp only [BitVec.getLsbD_or, BitVec.getLsbD_and, clears j hj, BitVec.getLsbD_shiftLeft, BitVec.getLsbD_setWidth,
    BitVec.getLsbD_append, BitVec.getLsbD_extractLsb', hj]
  rcases Nat.lt_or_ge j k with below | above
  · simp [below, Nat.not_le.2 below]
  rcases Nat.lt_or_ge j (k + n) with inside | beyond
  · have in_field : j - k < n := by omega
    have in_octet : j - k < 8 := by omega
    simp [inside, in_field, in_octet, Nat.not_lt.2 above]
  · have past_field : ¬(j - k < n) := by omega
    have in_upper : j - k - n < 8 - (k + n) := by omega
    have position : k + n + (j - k - n) = j := by omega
    have no_bit : v.getLsbD (j - k) = false := BitVec.getLsbD_of_ge v _ (by omega)
    simp [past_field, in_upper, position, no_bit, hj, Nat.not_lt.2 above, Nat.not_lt.2 beyond]

/-- The octet with a field written, as a number. -/
theorem toNat_masked_or_field {mask : Octet} {k n : Nat} (clears : ClearsField mask k n) (fits : k + n ≤ 8)
    (x : Octet) (v : BitVec n) : ((x &&& mask) ||| (v.setWidth 8 <<< k)).toNat =
      x.toNat / 2 ^ (k + n) * 2 ^ (k + n) + v.toNat * 2 ^ k + x.toNat % 2 ^ k := by
  have width : 8 - (k + n) + n + k ≤ 8 := by omega
  have above : x.toNat / 2 ^ (k + n) < 2 ^ (8 - (k + n)) :=
    Nat.div_lt_of_lt_mul (by rw [← Nat.pow_add, Nat.add_sub_cancel' fits]; exact x.isLt)
  rw [masked_or_field_eq_append clears, BitVec.toNat_setWidth_of_le width, toNat_append, toNat_append, toNat_extract,
    toNat_extract, Nat.mod_eq_of_lt above, Nat.pow_zero, Nat.div_one]
  ring

@[simp] theorem oct_write (m : Memory) (a : Nat) (v : Octet) (x : Nat) :
    oct (m.write a v) x = if x = a then v.toNat else oct m x := by
  rw [oct, Memory.read_write, oct]
  split <;> rfl

/-- The buffer with a field of the octet at `a` written. -/
theorem oct_write_field (f : Memory) (a : Nat) {mask : Octet} (k : Nat) {n : Nat} (clears : ClearsField mask k n)
    (fits : k + n ≤ 8) (v : BitVec n) (x : Nat) :
    oct (f.write a ((f.read a &&& mask) ||| (v.setWidth 8 <<< k))) x =
      if x = a then oct f a / 2 ^ (k + n) * 2 ^ (k + n) + v.toNat * 2 ^ k + oct f a % 2 ^ k else oct f x := by
  rw [oct_write, toNat_masked_or_field clears fits, ← oct]

/-- The same for a field in the low bits, which needs no shift. -/
theorem oct_write_lowField (f : Memory) (a : Nat) {mask : Octet} {n : Nat} (clears : ClearsField mask 0 n)
    (fits : n ≤ 8) (v : BitVec n) (x : Nat) :
    oct (f.write a ((f.read a &&& mask) ||| v.setWidth 8)) x =
      if x = a then oct f a / 2 ^ n * 2 ^ n + v.toNat else oct f x := by
  have written := oct_write_field f a 0 clears (by omega) v x
  rw [BitVec.shiftLeft_zero, Nat.zero_add, Nat.pow_zero, Nat.mod_one, Nat.mul_one] at written
  exact written

/-! ### What each setter leaves in the frame buffer (43_tmtf.md R131 to R144)

The mask of each field is the one in the model's definition, and `ClearsField` is decided for it. -/

section
variable (f : Memory)

theorem oct_tmSetVersion (v : BitVec 2) (a : Nat) : oct (tmSetVersion f v) a =
    if a = 0 then v.toNat * 64 + oct f 0 % 64 else oct f a := by
  have octet := oct_lt f 0
  refine (oct_write_field f 0 6 (by decide) (by decide) v a).trans ?_
  split <;> omega

theorem oct_tmSetScid (v : BitVec 10) (a : Nat) : oct (tmSetScid f v) a =
    if a = 0 then oct f 0 / 64 * 64 + v.toNat / 16
    else if a = 1 then (v.toNat % 16) * 16 + oct f 1 % 16 else oct f a := by
  have octet := oct_lt f 1
  have high_clears : ClearsField 0xC0 0 6 := by decide
  have low_clears : ClearsField 0x0F 4 4 := by decide
  have high := oct_write_lowField f 0 high_clears (by decide) (v.extractLsb' 4 6) a
  have low := toNat_masked_or_field low_clears (by decide) (f.read 1) (v.extractLsb' 0 4)
  rw [toNat_extract] at high low
  rw [← oct] at low
  refine (oct_write _ 1 _ a).trans ((congrArg₂ (ite (a = 1)) low high).trans ?_)
  split_ifs <;> omega

theorem oct_tmSetVcid (v : BitVec 3) (a : Nat) : oct (tmSetVcid f v) a =
    if a = 1 then oct f 1 / 16 * 16 + v.toNat * 2 + oct f 1 % 2 else oct f a := by
  refine (oct_write_field f 1 1 (by decide) (by decide) v a).trans ?_
  split <;> omega

theorem oct_tmSetOcfFlag (v : Bool) (a : Nat) : oct (tmSetOcfFlag f v) a =
    if a = 1 then oct f 1 / 2 * 2 + v.toNat else oct f a := by
  refine (oct_write_lowField f 1 (by decide) (by decide) (BitVec.ofBool v) a).trans ?_
  rw [toNat_ofBool]
  split <;> omega

theorem oct_tmSetMcCount (v : Octet) (a : Nat) : oct (tmSetMcCount f v) a = if a = 2 then v.toNat else oct f a :=
  oct_write f 2 v a

theorem oct_tmSetVcCount (v : Octet) (a : Nat) : oct (tmSetVcCount f v) a = if a = 3 then v.toNat else oct f a :=
  oct_write f 3 v a

theorem oct_tmSetSechdrFlag (v : Bool) (a : Nat) : oct (tmSetSechdrFlag f v) a =
    if a = 4 then v.toNat * 128 + oct f 4 % 128 else oct f a := by
  have octet := oct_lt f 4
  refine (oct_write_field f 4 7 (by decide) (by decide) (BitVec.ofBool v) a).trans ?_
  rw [toNat_ofBool]
  split <;> omega

/-- The sync flag set to 1 is one bit; set to 0 it clears that bit and puts `011` in the three below (R138). -/
theorem toNat_syncFlagOctet (x : Octet) (v : Bool) : (syncFlagOctet x v).toNat =
    if v = true then x.toNat / 128 * 128 + 64 + x.toNat % 64 else x.toNat / 128 * 128 + 24 + x.toNat % 8 := by
  have flag_clears : ClearsField 0xBF 6 1 := by decide
  have ids_clear : ClearsField 0xC7 3 3 := by decide
  have flag := toNat_masked_or_field flag_clears (by decide) x (BitVec.ofBool v)
  cases v with
  | true => exact flag
  | false =>
    have flag : ((x &&& 0xBF) ||| (bitOctet false <<< 6)).toNat = _ := flag
    refine (toNat_masked_or_field ids_clear (by decide) _ 3#3).trans ?_
    rw [flag, toNat_ofBool]
    simp only [Bool.false_eq_true, if_false, Bool.toNat_false, BitVec.toNat_ofNat]
    omega

theorem oct_tmSetSyncFlag (v : Bool) (a : Nat) : oct (tmSetSyncFlag f v) a =
    if a = 4 then (if v = true then oct f 4 / 128 * 128 + 64 + oct f 4 % 64
      else oct f 4 / 128 * 128 + 24 + oct f 4 % 8) else oct f a := by
  rw [tmSetSyncFlag, oct_write, toNat_syncFlagOctet, ← oct]

theorem oct_tmSetPktOrderFlag (v : Bool) (a : Nat) : oct (tmSetPktOrderFlag f v) a =
    if a = 4 then oct f 4 / 64 * 64 + v.toNat * 32 + oct f 4 % 32 else oct f a := by
  refine (oct_write_field f 4 5 (by decide) (by decide) (BitVec.ofBool v) a).trans ?_
  rw [toNat_ofBool]
  split <;> omega

theorem oct_tmSetSegLenId (v : BitVec 2) (a : Nat) : oct (tmSetSegLenId f v) a =
    if a = 4 then oct f 4 / 32 * 32 + v.toNat * 8 + oct f 4 % 8 else oct f a := by
  refine (oct_write_field f 4 3 (by decide) (by decide) v a).trans ?_
  split <;> omega

theorem oct_tmSetFhp (v : BitVec 11) (a : Nat) : oct (tmSetFhp f v) a =
    if a = 4 then oct f 4 / 8 * 8 + v.toNat / 256 else if a = 5 then v.toNat % 256 else oct f a := by
  have octet := oct_lt f 4
  have clears : ClearsField 0xF8 0 3 := by decide
  have high := oct_write_lowField f 4 clears (by decide) (v.extractLsb' 8 3) a
  have low := toNat_extract v 0 8
  rw [toNat_extract] at high
  refine (oct_write _ 5 _ a).trans ((congrArg₂ (ite (a = 5)) low high).trans ?_)
  split_ifs <;> omega

theorem oct_tmSetSechdrLen (len : BitVec 6) (a : Nat) :
    oct (tmSetSechdrLen f len) a = if a = 6 then len.toNat else oct f a := by
  rw [tmSetSechdrLen, oct_write, BitVec.toNat_setWidth_of_le (by decide)]

/-- The octets copied from another buffer, from its start on. -/
theorem oct_tmSetSechdrData (m : Memory) (n a : Nat) : oct (tmSetSechdrData f (m.readBytes 0 n)) a =
    if 7 ≤ a ∧ a < 7 + n then oct m (a - 7) else oct f a := by
  rw [oct, tmSetSechdrData, Memory.read_writeBytes, Memory.length_readBytes]
  split
  · have inside : a - 7 < n := by omega
    rw [List.getD_eq_getElem?_getD, Memory.getElem?_readBytes, if_pos inside, Option.getD_some, Nat.zero_add, oct]
  · rfl

theorem oct_tmSetOcf (off : Nat) (d : Word) (a : Nat) : oct (tmSetOcf f off d) a =
    if a = off then d.toNat / 2 ^ 24
    else if a = off + 1 then d.toNat / 2 ^ 16 % 256
    else if a = off + 2 then d.toNat / 2 ^ 8 % 256
    else if a = off + 3 then d.toNat % 256 else oct f a := by
  have word := d.isLt
  simp only [tmSetOcf, wordOctets, Memory.writeBytes, oct_write, toNat_extract]
  split_ifs <;> omega

end

/-! ### The setters -/

section
variable {s : State} {ch : BitVec 8} {c : Channel} {i : Instr} {g : Nat → Nat}

/-- A command that ends with the frame buffer of its channel replaced writes what the new buffer holds. -/
theorem writesFrame_of_done {f : Memory} (completes : exec i s = done (s.setFrame ch c f) 0)
    (octets : ∀ a, oct f a = g a) : WritesFrame i s ch c g :=
  ⟨f, completes, octets⟩

/-- A field setter, on a channel of the block, writes what its operation leaves in the buffer. -/
theorem writesFrame_of_tmSet {V : Type} {v : V} (hc : s.chans[ch.toNat]? = some c) (put : Memory → V → Memory)
    (setter : exec i s = tmSet ch (fun f => put f v) s) (octets : ∀ a, oct (put c.frm v) a = g a) :
    WritesFrame i s ch c g :=
  writesFrame_of_done (setter.trans (withChannel_of_some hc _)) octets

end

/-- Settles O32: each setter is its operation on the frame buffer, of which the statement gives every octet. -/
theorem tmSettersWriteTheirFields : Obligations.TmSettersWriteTheirFields := by
  intro ch c s hc
  refine ⟨fun v => ?version, fun v => ?scid, fun v => ?vcid, fun v => ?ocfFlag, fun v => ?mcCount, fun v => ?vcCount,
    fun v => ?sechdrFlag, fun v => ?syncFlag, fun v => ?pktOrderFlag, fun v => ?segLenId, fun v => ?fhp⟩
  case version => exact writesFrame_of_tmSet hc tmSetVersion rfl (oct_tmSetVersion c.frm v)
  case scid => exact writesFrame_of_tmSet hc tmSetScid rfl (oct_tmSetScid c.frm v)
  case vcid => exact writesFrame_of_tmSet hc tmSetVcid rfl (oct_tmSetVcid c.frm v)
  case ocfFlag => exact writesFrame_of_tmSet hc tmSetOcfFlag rfl (oct_tmSetOcfFlag c.frm v)
  case mcCount => exact writesFrame_of_tmSet hc tmSetMcCount rfl (oct_tmSetMcCount c.frm v)
  case vcCount => exact writesFrame_of_tmSet hc tmSetVcCount rfl (oct_tmSetVcCount c.frm v)
  case sechdrFlag => exact writesFrame_of_tmSet hc tmSetSechdrFlag rfl (oct_tmSetSechdrFlag c.frm v)
  case syncFlag => exact writesFrame_of_tmSet hc tmSetSyncFlag rfl (oct_tmSetSyncFlag c.frm v)
  case pktOrderFlag => exact writesFrame_of_tmSet hc tmSetPktOrderFlag rfl (oct_tmSetPktOrderFlag c.frm v)
  case segLenId => exact writesFrame_of_tmSet hc tmSetSegLenId rfl (oct_tmSetSegLenId c.frm v)
  case fhp => exact writesFrame_of_tmSet hc tmSetFhp rfl (oct_tmSetFhp c.frm v)

/-! ### The secondary header and the OCF: what is left to check on a channel of the block -/

section
variable {s : State} {ch : BitVec 8} {c : Channel} (hc : s.chans[ch.toNat]? = some c)
include hc

theorem exec_tmSetSechdrLen_of_some (len : Half) : exec (.tmSetSechdrLen ch len) s =
    if oct c.frm 4 / 128 = 1 then
      if len.toNat = 0 ∨ 63 < len.toNat then raise s .invalidLength
      else done (s.setFrame ch c (tmSetSechdrLen c.frm (len.setWidth 6))) 0
    else raise s .invalidSecondaryHeader := by
  refine (withChannel_of_some hc _).trans ?_
  simp only [Bool.not_eq_true', ← Bool.not_eq_true, tmSechdrFlag_iff, ite_not]

theorem exec_tmSetSechdrData_of_some (len : Half) : exec (.tmSetSechdrData ch len) s =
    if oct c.frm 4 / 128 = 1 then
      if len.toNat = 0 ∨ oct c.frm 6 % 64 < len.toNat then raise s .invalidLength
      else done (s.setFrame ch c (tmSetSechdrData c.frm (s.inbuf.readBytes 0 len.toNat))) 0
    else raise s .invalidSecondaryHeader := by
  refine (withChannel_of_some hc _).trans ?_
  simp only [Bool.not_eq_true', ← Bool.not_eq_true, tmSechdrFlag_iff, toNat_tmSechdrLen, ite_not]

theorem exec_tmSetOcf_of_some (off : Half) (d : Word) : exec (.tmSetOcf ch off d) s =
    if oct c.frm 1 % 2 = 1 then
      if s.params.frameCap < off.toNat + 4 then raise s .invalidLength
      else done (s.setFrame ch c (tmSetOcf c.frm off.toNat d)) 0
    else raise s .genericError := by
  refine (withChannel_of_some hc _).trans ?_
  simp only [Bool.not_eq_true', ← Bool.not_eq_true, tmOcfFlag_iff, ite_not]

end

/-- Settles O33: the flag decides, then the length, and what is left is the operation on the frame buffer. -/
theorem tmSecondaryHeaderHelpers : Obligations.TmSecondaryHeaderHelpers := by
  intro ch len c s hc
  have set_len := exec_tmSetSechdrLen_of_some hc len
  have set_data := exec_tmSetSechdrData_of_some hc len
  refine ⟨fun clear => ?no_header, fun flag => ?header⟩
  case no_header =>
    rw [if_neg (by omega)] at set_len set_data
    exact ⟨set_len, set_data⟩
  case header =>
    rw [if_pos flag] at set_len set_data
    refine ⟨fun outside => ?len_error, fun pos le => ?len_written, fun outside => ?data_error,
      fun pos le => ?data_written⟩
    case len_error => exact set_len.trans (if_pos outside)
    case len_written =>
      rw [if_neg (by omega)] at set_len
      have stored : (len.setWidth 6).toNat = len.toNat := by
        rw [BitVec.toNat_setWidth, Nat.mod_eq_of_lt (by omega)]
      exact writesFrame_of_done set_len (stored ▸ oct_tmSetSechdrLen c.frm (len.setWidth 6))
    case data_error => exact set_data.trans (if_pos outside)
    case data_written =>
      rw [if_neg (by omega)] at set_data
      exact writesFrame_of_done set_data (oct_tmSetSechdrData c.frm s.inbuf len.toNat)

/-- Settles O34: the flag decides, then the upper bound, and what is left is the four octets. -/
theorem tmSetOcfWritesFourOctets : Obligations.TmSetOcfWritesFourOctets := by
  intro ch off d c s hc
  have set_ocf := exec_tmSetOcf_of_some hc off d
  refine ⟨fun clear => ?no_ocf, fun flag beyond => ?too_long, fun flag fits => ?written⟩
  case no_ocf => exact set_ocf.trans (if_neg (by omega))
  case too_long => exact set_ocf.trans ((if_pos flag).trans (if_pos beyond))
  case written =>
    rw [if_pos flag, if_neg (by omega)] at set_ocf
    exact writesFrame_of_done set_ocf (oct_tmSetOcf c.frm off.toNat d)

end Sys2Proof.Machine
end

section
/-! SUPPORT. COP-1 / FARM-1 (44_cop1_farm1.md R155 to R173): the CLCW as a number, the sliding window as distances mod 256,
each outcome of COP1_PROCESS_FRAME as an equation, and the writers of the CLCW, of the lockout flag and of V(R). -/

namespace Sys2Proof.Machine

open Claims (Answers Copied OpDecodes ValidFor bypassBit ctlBit oct payLen seqDelta)

/-! ### The CLCW word (30_encoding.md R56) -/

theorem Clcw.toNat_word (c : Clcw) : c.word.toNat =
    c.ctrlWordType.toNat * 2 ^ 31 + c.version.toNat * 2 ^ 29 + c.status.toNat * 2 ^ 26 + c.copInEffect.toNat * 2 ^ 24 +
      c.vcid.toNat * 2 ^ 18 + c.spare1.toNat * 2 ^ 16 + c.noRF.toNat * 2 ^ 15 + c.noBitlock.toNat * 2 ^ 14 +
      c.lockout.toNat * 2 ^ 13 + c.wait.toNat * 2 ^ 12 + c.retransmit.toNat * 2 ^ 11 + c.farmB.toNat * 2 ^ 9 +
      c.spare2.toNat * 2 ^ 8 + c.report.toNat := by
  simp only [Clcw.word, toNat_append, toNat_ofBool]
  omega

theorem Clcw.toNat_word_initialised (v : BitVec 6) :
    (Clcw.initialised v).word.toNat = 0x01000000 + v.toNat * 2 ^ 18 := by
  rw [Clcw.toNat_word]
  simp [Clcw.initialised, Clcw.reset]

/-- Settles O42: the command writes the initialised CLCW, whose fields are its own. -/
theorem initClcwSetsTheWord : Obligations.InitClcwSetsTheWord :=
  ⟨opDecodes_lowBits (fun _ => .cop1InitClcw) (by decide) fun _ _ _ _ => rfl, fun v _ =>
    ⟨Clcw.initialised v, rfl, Clcw.toNat_word_initialised v, rfl, rfl, rfl, rfl, rfl, rfl, rfl, rfl⟩⟩

/-- Settles O43: each command answers its register and writes nothing, and the word is a concatenation of the fields. -/
theorem clcwReadsReturnItsFields : Obligations.ClcwReadsReturnItsFields := by
  refine ⟨opDecodes_of_row fun _ => rfl, opDecodes_of_row fun _ => rfl, opDecodes_of_row fun _ => rfl, fun s => ?_⟩
  refine ⟨?copEffect, ?vcid, ?word, ?clcwOut⟩
  case copEffect => exact answers_ok_of_done (x := s.clcw.copInEffect) rfl rfl
  case vcid => exact answers_ok_of_done (x := s.clcw.vcid) rfl rfl
  case word => exact answers_ok_of_done (x := s.clcwOut) (congrArg (done s) (BitVec.setWidth_eq s.clcw.word).symm) rfl
  case clcwOut => exact Clcw.toNat_word s.clcw

/-! ### The sliding window (R163) -/

/-- The wrapping range test compares distances from the lower end, mod 256. -/
theorem inRange_iff (lo v hi : BitVec 8) : inRange lo v hi = true ↔ v - lo ≤ hi - lo := by
  unfold inRange
  split
  · simp only [Bool.and_eq_true, decide_eq_true_eq]
    bv_omega
  · simp only [Bool.or_eq_true, decide_eq_true_eq]
    bv_omega

/-- N(S) is in the positive window, or is V(R), when it is at most 62 ahead. -/
theorem inRange_positive_iff (ns vr : BitVec 8) :
    inRange vr ns (vr + 62) = true ↔ (ns.toNat + 256 - vr.toNat) % 256 ≤ 62 := by
  rw [inRange_iff]
  bv_omega

/-- N(S) is in the negative window when it is 1 to 63 behind. -/
theorem inRange_negative_iff (ns vr : BitVec 8) :
    inRange (vr - 63) ns (vr - 1) = true ↔ 193 ≤ (ns.toNat + 256 - vr.toNat) % 256 := by
  rw [inRange_iff]
  bv_omega

theorem eq_iff_distance_eq_zero (ns vr : BitVec 8) : ns = vr ↔ (ns.toNat + 256 - vr.toNat) % 256 = 0 := by
  bv_omega

/-- Settles O44: the tests in the document's order are the bounds on the difference in rising order. -/
theorem classifierFollowsTheWindow : Obligations.ClassifierFollowsTheWindow := by
  intro ns vr
  simp only [classify, inRange_positive_iff, inRange_negative_iff, eq_iff_distance_eq_zero ns vr]
  generalize (ns.toNat + 256 - vr.toNat) % 256 = delta
  by_cases behind : 193 ≤ delta
  · rw [if_pos behind, if_neg (by omega : ¬delta ≤ 192)]
  · rw [if_neg behind, if_pos (by omega : delta ≤ 192)]

/-- The class of the frame in `TCBUF`. -/
theorem classify_tcbuf (s : State) : classify (tcSeq s.tcbuf) s.clcw.report =
    if seqDelta s = 0 then .pass else if seqDelta s ≤ 62 then .positive else if seqDelta s ≤ 192 then .lockout
      else .negative :=
  classifierFollowsTheWindow _ _

theorem seqDelta_eq_zero_of_pass {s : State} (h : classify (tcSeq s.tcbuf) s.clcw.report = .pass) : seqDelta s = 0 := by
  rw [classify_tcbuf] at h
  by_contra ahead
  rw [if_neg ahead] at h
  split at h
  · cases h
  · split at h <;> cases h

/-! ### The path of a frame (R158, R159) -/

theorem tcBypass_iff (h : Memory) : tcBypass h = true ↔ bypassBit h = 1 := getLsbD_eq_true _ 5

theorem tcCtlCmd_eq_false_iff (h : Memory) : tcCtlCmd h = false ↔ ctlBit h = 0 := getLsbD_eq_false _ 4

theorem oct_eq_toNat_iff (m : Memory) (a : Nat) (v : Octet) : oct m a = v.toNat ↔ m.read a = v := BitVec.toNat_inj

section
variable {s : State} {d : ServiceDescriptor}

theorem exec_cop1ProcessFrame (a : Bool) (d : ServiceDescriptor) (s : State) :
    exec (.cop1ProcessFrame a d) s = execCop1ProcessFrame a d s := rfl

theorem processFrame_of_not_validFor (a : Bool) (invalid : ¬ValidFor s.tcbuf d) :
    exec (.cop1ProcessFrame a d) s = raise s .invalidFrame := by
  rw [← tcValid_iff_validFor, Bool.not_eq_true] at invalid
  rw [exec_cop1ProcessFrame, execCop1ProcessFrame, invalid]
  rfl

theorem processFrame_of_control (a : Bool) (valid : ValidFor s.tcbuf d) (bypass : bypassBit s.tcbuf = 1)
    (control : ctlBit s.tcbuf = 1) : exec (.cop1ProcessFrame a d) s = processControl s := by
  rw [exec_cop1ProcessFrame, execCop1ProcessFrame, (tcValid_iff_validFor _ _).2 valid, (tcBypass_iff _).2 bypass,
    (tcCtlCmd_iff _).2 control]
  rfl

theorem processFrame_of_bypassData (a : Bool) (valid : ValidFor s.tcbuf d) (bypass : bypassBit s.tcbuf = 1)
    (data : ctlBit s.tcbuf = 0) : exec (.cop1ProcessFrame a d) s = processBypassData a d s := by
  rw [exec_cop1ProcessFrame, execCop1ProcessFrame, (tcValid_iff_validFor _ _).2 valid, (tcBypass_iff _).2 bypass,
    (tcCtlCmd_eq_false_iff _).2 data]
  rfl

theorem processFrame_of_sequenced (a : Bool) (valid : ValidFor s.tcbuf d) (sequenced : bypassBit s.tcbuf = 0) :
    exec (.cop1ProcessFrame a d) s = processSequenced a d s := by
  rw [exec_cop1ProcessFrame, execCop1ProcessFrame, (tcValid_iff_validFor _ _).2 valid,
    (tcBypass_eq_false_iff _).2 sequenced]
  rfl

/-! ### The control commands (R160 to R164) -/

theorem processControl_of_unlock (unlock : oct s.tcbuf 5 = 0) : processControl s = done (s.setClcw s.clcw.unlock) 0 := by
  have command : controlCommand s.tcbuf = .unlock := if_pos ((oct_eq_toNat_iff _ 5 0).1 unlock)
  rw [processControl, command]

theorem controlCommand_eq_setVr (first : oct s.tcbuf 5 = 0x82) (second : oct s.tcbuf 6 = 0) :
    controlCommand s.tcbuf = .setVr := by
  have octet5 := (oct_eq_toNat_iff _ 5 0x82).1 first
  have octet6 := (oct_eq_toNat_iff _ 6 0).1 second
  rw [controlCommand, octet5, if_neg (by decide), if_pos ⟨rfl, octet6⟩]

theorem processControl_of_setVr (first : oct s.tcbuf 5 = 0x82) (second : oct s.tcbuf 6 = 0) :
    processControl s = if s.clcw.lockout then raise (s.setClcw s.clcw.countFarmB) .farm1Violation
      else done (s.setClcw (s.clcw.setVr (s.tcbuf.read 7))) 0 := by
  rw [processControl, controlCommand_eq_setVr first second]

theorem processControl_of_unrecognised (not_unlock : oct s.tcbuf 5 ≠ 0)
    (not_setVr : ¬(oct s.tcbuf 5 = 0x82 ∧ oct s.tcbuf 6 = 0)) : processControl s = raise s .farm1Violation := by
  have octet5 : s.tcbuf.read 5 ≠ 0 := mt (oct_eq_toNat_iff _ 5 0).2 not_unlock
  have octets : ¬(s.tcbuf.read 5 = 0x82 ∧ s.tcbuf.read 6 = 0) := fun ⟨h5, h6⟩ =>
    not_setVr ⟨(oct_eq_toNat_iff _ 5 0x82).2 h5, (oct_eq_toNat_iff _ 6 0).2 h6⟩
  have command : controlCommand s.tcbuf = .unrecognised := (if_neg octet5).trans (if_neg octets)
  rw [processControl, command]

/-! ### The sequence-controlled frames (R167 to R169) -/

theorem processSequenced_of_lockout (a : Bool) (d : ServiceDescriptor) (locked : s.clcw.lockout = true) :
    processSequenced a d s = raise s .farm1Violation := by
  rw [processSequenced, if_pos locked]

section
variable (unlocked : s.clcw.lockout = false)
include unlocked

theorem processSequenced_of_pass (a : Bool) (d : ServiceDescriptor) (inSequence : seqDelta s = 0) :
    processSequenced a d s =
      if a then done ((s.setClcw s.clcw.accept).copyPayload d) (BitVec.ofNat 32 (tcPayloadLen s.tcbuf d))
      else raise (s.setClcw s.clcw.backpressure) .invalidArgument := by
  rw [processSequenced, unlocked, classify_tcbuf, if_pos inSequence]
  rfl

theorem processSequenced_of_positive (a : Bool) (d : ServiceDescriptor) (ahead : 1 ≤ seqDelta s)
    (near : seqDelta s ≤ 62) :
    processSequenced a d s = raise (s.setClcw s.clcw.requestRetransmit) .farm1Violation := by
  rw [processSequenced, unlocked, classify_tcbuf, if_neg (by omega : ¬seqDelta s = 0), if_pos near]
  rfl

theorem processSequenced_of_lockoutArea (a : Bool) (d : ServiceDescriptor) (far : 63 ≤ seqDelta s)
    (inArea : seqDelta s ≤ 192) : processSequenced a d s = raise (s.setClcw s.clcw.lockOut) .farm1Violation := by
  rw [processSequenced, unlocked, classify_tcbuf, if_neg (by omega : ¬seqDelta s = 0), if_neg (by omega : ¬seqDelta s ≤ 62),
    if_pos inArea]
  rfl

theorem processSequenced_of_negative (a : Bool) (d : ServiceDescriptor) (behind : 193 ≤ seqDelta s) :
    processSequenced a d s = raise s .farm1Violation := by
  rw [processSequenced, unlocked, classify_tcbuf, if_neg (by omega : ¬seqDelta s = 0), if_neg (by omega : ¬seqDelta s ≤ 62),
    if_neg (by omega : ¬seqDelta s ≤ 192)]
  rfl

end

/-! ### The thirteen outcomes (R170) -/

/-- A frame whose payload goes to its destination: the CLCW, `PAYBUF` and `pay_len` are written (R107). -/
theorem answers_of_delivery {i : Instr} {c : Clcw} (completes : exec i s =
      done ((s.setClcw c).copyPayload d) (BitVec.ofNat 32 (tcPayloadLen s.tcbuf d))) :
    ∃ m, Answers i s { s with clcw := c, paybuf := m, payLen := BitVec.ofNat 16 (payLen s.tcbuf d) } .ok
      (payLen s.tcbuf d) ∧ Copied s d m := by
  rw [← tcPayloadLen_eq_payLen]
  exact ⟨((s.setClcw c).copyPayload d).paybuf, completes, copied_copyPayload (s.setClcw c) d⟩

end

/-- Settles O45: the frame's flags select the path, and the equation of the path is the answer. -/
theorem processFrameHasTheThirteenOutcomes : Obligations.ProcessFrameHasTheThirteenOutcomes := by
  intro a d s
  refine ⟨processFrame_of_not_validFor a, fun valid bypass control => ?control, fun valid bypass data => ?bypassData,
    fun valid sequenced => ?sequenced⟩
  case control =>
    have path := processFrame_of_control a valid bypass control
    refine ⟨fun unlock => ?_, fun first second unlocked => ?_, fun first second locked => ?_,
      fun not_unlock not_setVr => ?_⟩
    · exact path.trans (processControl_of_unlock unlock)
    · rw [processControl_of_setVr first second, unlocked] at path
      exact path
    · rw [processControl_of_setVr first second, locked] at path
      exact path
    · exact path.trans (processControl_of_unrecognised not_unlock not_setVr)
  case bypassData =>
    have path := processFrame_of_bypassData a valid bypass data
    refine ⟨?_, ?_⟩
    · rintro rfl
      exact answers_of_delivery path
    · rintro rfl
      exact path
  case sequenced =>
    have path := processFrame_of_sequenced a valid sequenced
    refine ⟨fun locked => path.trans (processSequenced_of_lockout a d locked), fun unlocked => ⟨?_, ?_, ?_, ?_, ?_⟩⟩
    · rintro inSequence rfl
      exact answers_of_delivery (path.trans (processSequenced_of_pass unlocked true d inSequence))
    · rintro inSequence rfl
      exact path.trans (processSequenced_of_pass unlocked false d inSequence)
    · exact fun ahead near => path.trans (processSequenced_of_positive unlocked a d ahead near)
    · exact fun far inArea => path.trans (processSequenced_of_lockoutArea unlocked a d far inArea)
    · exact fun behind => path.trans (processSequenced_of_negative unlocked a d behind)

/-! ### The writers of the CLCW (R155) -/

theorem Effect.clcw_eq {i : Instr} {s u : State} {st : Status} (h : Effect s i u st)
    (other : ¬((∃ v, i = .cop1InitClcw v) ∨ ∃ a d, i = .cop1ProcessFrame a d)) : u.clcw = s.clcw := by
  cases h with
  | space => exact State.setSpaceBuffer_clcw ..
  | initClcw v => exact absurd (.inl ⟨v, rfl⟩) other
  | farm a d | deliver a d => exact absurd (.inr ⟨a, d, rfl⟩) other
  | keeps | payload | frame | extract | cadu | init | start | add | complete => rfl

/-- Settles O18, from the effects on the CLCW. -/
theorem clcwWrittenOnlyByFarm : Obligations.ClcwWrittenOnlyByFarm := by
  intro i s t h
  obtain ⟨u, st, v, effect, -, rfl⟩ := exec_completes h
  exact not_imp_comm.1 effect.clcw_eq

/-! ### How COP1_PROCESS_FRAME moves lockout and V(R) (R160, R162, R168, R174) -/

section
variable {s t : State} {a : Bool} {d : ServiceDescriptor}

theorem processControl_leaves_lockout (h : processControl s = .next t) (locked : s.clcw.lockout = true)
    (unlocked : t.clcw.lockout = false) : oct s.tcbuf 5 = 0 := by
  have stays {c : Clcw} (same : c.lockout = s.clcw.lockout) : c.lockout ≠ false := by simp [same, locked]
  rcases processControl_next h with ⟨unlock, -⟩ | ⟨-, -, -, rfl⟩ | ⟨-, -, outside, -⟩ | rfl
  · exact (oct_eq_toNat_iff _ 5 0).2 unlock
  · exact absurd unlocked (stays rfl)
  · exact absurd locked (by simp [outside])
  · exact absurd unlocked (stays rfl)

theorem processBypassData_lockout (h : processBypassData a d s = .next t) : t.clcw.lockout = s.clcw.lockout := by
  rcases processBypassData_next h with ⟨-, rfl⟩ | ⟨-, rfl⟩ <;> rfl

/-- In Lockout a sequence-controlled frame changes nothing (R167). -/
theorem processSequenced_keeps_lockout (h : processSequenced a d s = .next t) (locked : s.clcw.lockout = true) :
    t.clcw.lockout = true := by
  rw [processSequenced_of_lockout a d locked] at h
  rw [(raise_next _ _ _).1 h]
  exact locked

/-- Of the frames, only a valid UNLOCK leaves Lockout (R160). -/
theorem processFrame_leaves_lockout (h : execCop1ProcessFrame a d s = .next t) (locked : s.clcw.lockout = true)
    (unlocked : t.clcw.lockout = false) :
    ValidFor s.tcbuf d ∧ bypassBit s.tcbuf = 1 ∧ ctlBit s.tcbuf = 1 ∧ oct s.tcbuf 5 = 0 := by
  have moved : t.clcw.lockout ≠ s.clcw.lockout := by simp [locked, unlocked]
  rcases execCop1ProcessFrame_next h with ⟨-, rfl⟩ | ⟨valid, ⟨bypass, control, h⟩ | ⟨-, -, h⟩ | ⟨-, h⟩⟩
  · exact absurd rfl moved
  · exact ⟨(tcValid_iff_validFor _ _).1 valid, (tcBypass_iff _).1 bypass, (tcCtlCmd_iff _).1 control,
      processControl_leaves_lockout h locked unlocked⟩
  · exact absurd (processBypassData_lockout h) moved
  · exact absurd ((processSequenced_keeps_lockout h locked).trans locked.symm) moved

theorem processControl_moves_vr (h : processControl s = .next t) (moved : t.clcw.report ≠ s.clcw.report) :
    s.clcw.lockout = false ∧ oct s.tcbuf 5 = 0x82 ∧ oct s.tcbuf 6 = 0 ∧ t.clcw.report = s.tcbuf.read 7 := by
  rcases processControl_next h with ⟨-, rfl⟩ | ⟨-, -, -, rfl⟩ | ⟨first, second, unlocked, rfl⟩ | rfl
  · exact absurd rfl moved
  · exact absurd rfl moved
  · exact ⟨unlocked, (oct_eq_toNat_iff _ 5 0x82).2 first, (oct_eq_toNat_iff _ 6 0).2 second, rfl⟩
  · exact absurd rfl moved

theorem processBypassData_report (h : processBypassData a d s = .next t) : t.clcw.report = s.clcw.report := by
  rcases processBypassData_next h with ⟨-, rfl⟩ | ⟨-, rfl⟩ <;> rfl

theorem processSequenced_moves_vr (h : processSequenced a d s = .next t) (moved : t.clcw.report ≠ s.clcw.report) :
    s.clcw.lockout = false ∧ a = true ∧ seqDelta s = 0 ∧ t.clcw.report = s.clcw.report + 1 := by
  rcases processSequenced_next h with
    ⟨-, rfl⟩ | ⟨unlocked, ⟨pass, dest, rfl⟩ | ⟨-, -, rfl⟩ | ⟨-, rfl⟩ | ⟨-, rfl⟩ | ⟨-, rfl⟩⟩
  case inr.inl => exact ⟨unlocked, dest, seqDelta_eq_zero_of_pass pass, rfl⟩
  all_goals exact absurd rfl moved

/-- Of the frames, only an accepted SET-V(R) and an accepted sequence-controlled frame move V(R) (R162, R168). -/
theorem processFrame_moves_vr (h : execCop1ProcessFrame a d s = .next t) (moved : t.clcw.report ≠ s.clcw.report) :
    ValidFor s.tcbuf d ∧ s.clcw.lockout = false ∧
      ((bypassBit s.tcbuf = 1 ∧ ctlBit s.tcbuf = 1 ∧ oct s.tcbuf 5 = 0x82 ∧ oct s.tcbuf 6 = 0 ∧
          t.clcw.report = s.tcbuf.read 7) ∨
        (bypassBit s.tcbuf = 0 ∧ a = true ∧ seqDelta s = 0 ∧ t.clcw.report = s.clcw.report + 1)) := by
  rcases execCop1ProcessFrame_next h with ⟨-, rfl⟩ | ⟨valid, ⟨bypass, control, h⟩ | ⟨-, -, h⟩ | ⟨sequenced, h⟩⟩
  · exact absurd rfl moved
  · obtain ⟨unlocked, setVr⟩ := processControl_moves_vr h moved
    exact ⟨(tcValid_iff_validFor _ _).1 valid, unlocked,
      .inl ⟨(tcBypass_iff _).1 bypass, (tcCtlCmd_iff _).1 control, setVr⟩⟩
  · exact absurd (processBypassData_report h) moved
  · obtain ⟨unlocked, accepted⟩ := processSequenced_moves_vr h moved
    exact ⟨(tcValid_iff_validFor _ _).1 valid, unlocked, .inr ⟨(tcBypass_eq_false_iff _).1 sequenced, accepted⟩⟩

end

/-- Settles O19: a command that moves lockout or V(R) writes the CLCW, so it is one of two, and of COP1_PROCESS_FRAME each
path says what it moves. -/
theorem lockoutAndVrMoveOnlyByTheRules : Obligations.LockoutAndVrMoveOnlyByTheRules := by
  intro i s t h
  refine ⟨fun locked unlocked => ?lockout, fun moved => ?vr⟩
  case lockout =>
    have written : t.clcw ≠ s.clcw := fun same => by simp [same, locked] at unlocked
    rcases clcwWrittenOnlyByFarm i s t h written with init | ⟨a, d, rfl⟩
    · exact .inl init
    · exact .inr ⟨a, d, rfl, processFrame_leaves_lockout h locked unlocked⟩
  case vr =>
    have written : t.clcw ≠ s.clcw := fun same => moved (congrArg Clcw.report same)
    rcases clcwWrittenOnlyByFarm i s t h written with init | ⟨a, d, rfl⟩
    · exact .inl init
    · exact .inr ⟨a, d, rfl, processFrame_moves_vr h moved⟩

end Sys2Proof.Machine
end

section
/-! SUPPORT. TC_SYNC (45_tc_sync.md R185 to R189): the code blocks of a CLTU and the data octets of the leading ones, the
loop over the blocks run up to the block that ends it, and what TC_SYNC_GET_FRAME answers for each end of the loop. -/

namespace Sys2Proof.Machine

open Claims (oct)

/-! ### The start sequence and the code blocks of a CLTU (R185, R60) -/

theorem readBytes_eq_startSequence_iff (m : Memory) :
    m.readBytes 0 2 = startSequence ↔ oct m 0 = 0xEB ∧ oct m 1 = 0x90 := by
  have octets : m.readBytes 0 2 = [m.read 0, m.read 1] := rfl
  have first := oct_eq_toNat_iff m 0 0xEB
  have second := oct_eq_toNat_iff m 1 0x90
  rw [octets, startSequence, List.cons.injEq, List.cons.injEq, ← first, ← second]
  simp

/-- A CLTU cut off after its `k`-th block has `k` blocks. -/
theorem codeBlocks_leading (m : Memory) (k : Nat) :
    codeBlocks m (2 + 8 * k) = (List.range k).map fun j => m.readBytes (2 + 8 * j) 8 := by
  rw [codeBlocks, Nat.add_sub_cancel_left, Nat.mul_div_cancel_left k (by decide)]

theorem codeBlocks_leading_succ (m : Memory) (k : Nat) :
    codeBlocks m (2 + 8 * (k + 1)) = codeBlocks m (2 + 8 * k) ++ [m.readBytes (2 + 8 * k) 8] := by
  simp only [codeBlocks_leading, List.range_succ, List.map_append, List.map_cons, List.map_nil]

/-- A trailing partial block is none (R189 (d)). -/
theorem codeBlocks_whole (m : Memory) (n : Nat) : codeBlocks m n = codeBlocks m (2 + 8 * ((n - 2) / 8)) := by
  rw [codeBlocks_leading, codeBlocks]

theorem codeBlocks_leading_prefix (m : Memory) {k l : Nat} (h : k ≤ l) :
    codeBlocks m (2 + 8 * k) <+: codeBlocks m (2 + 8 * l) := by
  obtain ⟨later, rfl⟩ := Nat.exists_eq_add_of_le h
  simp only [codeBlocks_leading, List.range_add, List.map_append]
  exact List.prefix_append _ _

/-- Block `k` of a CLTU that holds it whole, behind the leading `k` blocks. -/
theorem codeBlocks_at {n k : Nat} (m : Memory) (inside : 10 + 8 * k ≤ n) :
    ∃ rest, codeBlocks m n = codeBlocks m (2 + 8 * k) ++ m.readBytes (2 + 8 * k) 8 :: rest := by
  obtain ⟨rest, blocks⟩ := codeBlocks_leading_prefix m (by omega : k + 1 ≤ (n - 2) / 8)
  refine ⟨rest, ?_⟩
  rw [codeBlocks_whole, ← blocks, codeBlocks_leading_succ, List.append_assoc, List.singleton_append]

/-! ### The data octets of the leading blocks (R186) -/

/-- The seven data octets of each of the first `k` code blocks, in order. -/
def leadingData (m : Memory) (k : Nat) : List Octet :=
  (List.range (7 * k)).map fun x => m.read (2 + 8 * (x / 7) + x % 7)

@[simp] theorem length_leadingData (m : Memory) (k : Nat) : (leadingData m k).length = 7 * k := by simp [leadingData]

theorem getElem?_leadingData (m : Memory) {k x : Nat} (hx : x < 7 * k) :
    (leadingData m k)[x]? = some (m.read (2 + 8 * (x / 7) + x % 7)) := by simp [leadingData, hx]

/-- The parity octet of the next block is skipped. -/
theorem leadingData_succ (m : Memory) (k : Nat) :
    leadingData m (k + 1) = leadingData m k ++ (m.readBytes (2 + 8 * k) 8).take 7 := by
  have data : (m.readBytes (2 + 8 * k) 8).take 7 = m.readBytes (2 + 8 * k) 7 := rfl
  rw [data, leadingData, Nat.mul_succ, List.range_add, List.map_append, List.map_map]
  refine congrArg _ (List.map_congr_left fun i hi => ?_)
  have place : i < 7 := List.mem_range.1 hi
  rw [Function.comp_apply, show (7 * k + i) / 7 = k by omega, show (7 * k + i) % 7 = i by omega]

/-! ### The loop over the code blocks (R187) -/

section
variable {cap : Nat} {b : List Octet} {out : List Octet}

theorem extractFrame_nil (cap : Nat) (out : List Octet) : extractFrame cap [] out = .error .invalidCltu := rfl

theorem extractFrame_tail (cap : Nat) (bs : List (List Octet)) (out : List Octet) :
    extractFrame cap (tailSequence :: bs) out = .ok out := if_pos rfl

theorem extractFrame_overflow (notTail : b ≠ tailSequence) (full : cap < out.length + 7) (bs : List (List Octet)) :
    extractFrame cap (b :: bs) out = .error .invalidLength := by
  rw [extractFrame, if_neg notTail, if_pos full]

theorem extractFrame_data (notTail : b ≠ tailSequence) (room : out.length + 7 ≤ cap) (bs : List (List Octet)) :
    extractFrame cap (b :: bs) out = extractFrame cap bs (out ++ b.take 7) := by
  rw [extractFrame, if_neg notTail, if_neg (Nat.not_lt.2 room)]

end

/-- The leading `k` blocks, all of them data blocks for which there is room, leave their data octets behind. -/
theorem extractFrame_leading {m : Memory} {cap k : Nat} (notTail : ∀ j < k, m.readBytes (2 + 8 * j) 8 ≠ tailSequence)
    (room : 7 * k ≤ cap) (bs : List (List Octet)) :
    extractFrame cap (codeBlocks m (2 + 8 * k) ++ bs) [] = extractFrame cap bs (leadingData m k) := by
  induction k generalizing bs with
  | zero => rfl
  | succ k ih =>
    have room_next : (leadingData m k).length + 7 ≤ cap := by rwa [length_leadingData]
    rw [codeBlocks_leading_succ, List.append_assoc, List.singleton_append,
      ih (fun j hj => notTail j (Nat.lt_succ_of_lt hj)) (by omega),
      extractFrame_data (notTail k (Nat.lt_succ_self k)) room_next, ← leadingData_succ]

section
variable {m : Memory} {cap n k : Nat}

/-- The first tail block ends the loop, in front of the overflow test (R189 (g), (h)). -/
theorem extractFrame_of_firstTail (inside : 10 + 8 * k ≤ n) (tail : m.readBytes (2 + 8 * k) 8 = tailSequence)
    (notTail : ∀ j < k, m.readBytes (2 + 8 * j) 8 ≠ tailSequence) (room : 7 * k ≤ cap) :
    extractFrame cap (codeBlocks m n) [] = .ok (leadingData m k) := by
  obtain ⟨rest, blocks⟩ := codeBlocks_at m inside
  rw [blocks, extractFrame_leading notTail room, tail, extractFrame_tail]

theorem extractFrame_of_noTail (notTail : ∀ j, 10 + 8 * j ≤ n → m.readBytes (2 + 8 * j) 8 ≠ tailSequence)
    (room : 7 * ((n - 2) / 8) ≤ cap) : extractFrame cap (codeBlocks m n) [] = .error .invalidCltu := by
  rw [codeBlocks_whole, ← List.append_nil (codeBlocks _ _),
    extractFrame_leading (fun j hj => notTail j (by omega)) room, extractFrame_nil]

/-- Of more data blocks than the buffer holds, the first one beyond it ends the loop. -/
theorem extractFrame_of_tooLong (inside : 10 + 8 * (cap / 7) ≤ n)
    (notTail : ∀ j ≤ cap / 7, m.readBytes (2 + 8 * j) 8 ≠ tailSequence) :
    extractFrame cap (codeBlocks m n) [] = .error .invalidLength := by
  obtain ⟨rest, blocks⟩ := codeBlocks_at m inside
  have full : cap < (leadingData m (cap / 7)).length + 7 := by rw [length_leadingData]; omega
  rw [blocks, extractFrame_leading (fun j hj => notTail j (Nat.le_of_lt hj)) (Nat.mul_div_le cap 7),
    extractFrame_overflow (notTail _ (Nat.le_refl _)) full]

end

/-! ### What the command answers (R187) -/

section
variable {n : Half} {s : State}

theorem exec_tcSyncGetFrame (n : Half) (der : Bool) (s : State) :
    exec (.tcSyncGetFrame n der) s = execTcSyncGetFrame n der s := rfl

theorem tcSyncGetFrame_of_beyondBuffer (beyond : s.params.cltuCap < n.toNat) (der : Bool) :
    exec (.tcSyncGetFrame n der) s = raise s .invalidArgument := by
  rw [exec_tcSyncGetFrame, execTcSyncGetFrame, if_pos beyond]

section
variable (fits : n.toNat ≤ s.params.cltuCap)
include fits

theorem tcSyncGetFrame_of_noStart (noStart : n.toNat < 2 ∨ s.cltu.readBytes 0 2 ≠ startSequence) (der : Bool) :
    exec (.tcSyncGetFrame n der) s = raise s .invalidCltu := by
  rw [exec_tcSyncGetFrame, execTcSyncGetFrame, if_neg (Nat.not_lt.2 fits), if_pos noStart]

variable (long : 2 ≤ n.toNat) (start : s.cltu.readBytes 0 2 = startSequence)
include long start

theorem tcSyncGetFrame_of_error {st : Status}
    (loop : extractFrame s.params.tcbufCap (codeBlocks s.cltu n.toNat) [] = .error st) (der : Bool) :
    exec (.tcSyncGetFrame n der) s = raise s st := by
  have started := not_or.2 ⟨Nat.not_lt.2 long, not_not.2 start⟩
  rw [exec_tcSyncGetFrame, execTcSyncGetFrame, if_neg (Nat.not_lt.2 fits), if_neg started, loop]

theorem tcSyncGetFrame_of_ok {t : List Octet}
    (loop : extractFrame s.params.tcbufCap (codeBlocks s.cltu n.toNat) [] = .ok t) (der : Bool) :
    exec (.tcSyncGetFrame n der) s =
      done (s.commitTcFrame (tcFrameOctets der t)) (BitVec.ofNat 32 t.length) := by
  have started := not_or.2 ⟨Nat.not_lt.2 long, not_not.2 start⟩
  rw [exec_tcSyncGetFrame, execTcSyncGetFrame, if_neg (Nat.not_lt.2 fits), if_neg started, loop]

end
end

/-! ### The octets of the frame (R187, R188) -/

theorem getD_tcFrameOctets (der : Bool) (m : Memory) {k x : Nat} (hx : x < 7 * k) :
    (tcFrameOctets der (leadingData m k)).getD x 0 =
      if der = true then m.read (2 + 8 * (x / 7) + x % 7) ^^^ prbsWindow prbsTc x
      else m.read (2 + 8 * (x / 7) + x % 7) := by
  have octet := getElem?_leadingData m hx
  rw [List.getD_eq_getElem?_getD, tcFrameOctets]
  split
  · rw [getElem?_xorWithPrbs, octet, Option.map_some, Option.getD_some]
  · rw [octet, Option.getD_some]

theorem read_commitTcFrame (der : Bool) (s : State) (k x : Nat) :
    (s.commitTcFrame (tcFrameOctets der (leadingData s.cltu k))).tcbuf.read x =
      if x < 7 * k then
        (if der = true then s.cltu.read (2 + 8 * (x / 7) + x % 7) ^^^ prbsWindow prbsTc x
          else s.cltu.read (2 + 8 * (x / 7) + x % 7))
      else s.tcbuf.read x := by
  rw [State.commitTcFrame_tcbuf, Memory.read_writeBytes, length_tcFrameOctets, length_leadingData, Nat.zero_add,
    Nat.sub_zero]
  simp only [Nat.zero_le, true_and]
  split
  · exact getD_tcFrameOctets der s.cltu ‹_›
  · rfl

/-- Settles O46: the loop leaves the data octets of the blocks before the tail, and the command commits them. -/
theorem tcSyncExtractsTheFrame : Obligations.TcSyncExtractsTheFrame := by
  intro n der s k fits start0 start1 inside tail notTail room
  have start := (readBytes_eq_startSequence_iff s.cltu).2 ⟨start0, start1⟩
  have loop := extractFrame_of_firstTail inside tail notTail room
  have answers := tcSyncGetFrame_of_ok fits (by omega) start loop der
  refine ⟨_, ?_, read_commitTcFrame der s k⟩
  rwa [State.commitTcFrame, length_tcFrameOctets, length_leadingData] at answers

/-- Settles O47: the two checks before the loop, and the two ends of the loop other than the tail. -/
theorem tcSyncErrors : Obligations.TcSyncErrors := by
  intro n der s
  refine ⟨fun beyond => ?beyond, fun fits noStart => ?noStart, fun fits long start0 start1 notTail room => ?noTail,
    fun fits start0 start1 inside notTail => ?tooLong⟩
  case beyond => exact tcSyncGetFrame_of_beyondBuffer beyond der
  case noStart =>
    refine tcSyncGetFrame_of_noStart fits (noStart.imp_right fun wrong start => ?_) der
    obtain ⟨start0, start1⟩ := (readBytes_eq_startSequence_iff s.cltu).1 start
    exact wrong.elim (absurd start0) (absurd start1)
  case noTail =>
    have start := (readBytes_eq_startSequence_iff s.cltu).2 ⟨start0, start1⟩
    exact tcSyncGetFrame_of_error fits long start (extractFrame_of_noTail notTail room) der
  case tooLong =>
    have start := (readBytes_eq_startSequence_iff s.cltu).2 ⟨start0, start1⟩
    exact tcSyncGetFrame_of_error fits (by omega) start (extractFrame_of_tooLong inside notTail) der

end Sys2Proof.Machine
end

section
/-! SUPPORT. TM_SYNC (46_tm_sync.md R196, R197): the marker test as a proposition, what TM_SYNC_SYNCHRONIZE answers for each
outcome of its two length checks, and the octets of the CADU. -/

namespace Sys2Proof.Machine

/-! ### The length checks (R196, R197) -/

theorem asmLenOk_iff (p : Params) (al : Nat) : asmLenOk p al = true ↔ al % 2 = 0 ∧ 4 ≤ al ∧ al ≤ p.asmCap := by
  simp only [asmLenOk, Bool.and_eq_true, beq_iff_eq, decide_eq_true_eq, and_assoc]

section
variable {ch : BitVec 8} {al fl : Half} {c : Channel} {s : State} (hc : s.chans[ch.toNat]? = some c)
include hc

/-- On a channel of the block the marker is checked first, then the frame length (R196). -/
theorem exec_tmSyncSynchronize_of_some (al fl : Half) (rnd : Bool) : exec (.tmSyncSynchronize ch al fl rnd) s =
    if asmLenOk s.params al.toNat = true then
      if fl.toNat = 0 ∨ s.params.frameCap < fl.toNat then raise s .invalidArgument
      else done (s.setCadu (caduOctets s.asmbuf c.frm al.toNat fl.toNat rnd)) (BitVec.ofNat 32 (al.toNat + fl.toNat))
    else raise s .invalidAsmSize := by
  refine (withChannel_of_some hc _).trans ?_
  simp only [Bool.not_eq_true', ← Bool.not_eq_true, ite_not]

theorem tmSyncSynchronize_of_badMarker (bad : ¬asmLenOk s.params al.toNat = true) (fl : Half) (rnd : Bool) :
    exec (.tmSyncSynchronize ch al fl rnd) s = raise s .invalidAsmSize := by
  rw [exec_tmSyncSynchronize_of_some hc, if_neg bad]

variable (marker : asmLenOk s.params al.toNat = true)
include marker

theorem tmSyncSynchronize_of_badFrameLen (bad : fl.toNat = 0 ∨ s.params.frameCap < fl.toNat) (rnd : Bool) :
    exec (.tmSyncSynchronize ch al fl rnd) s = raise s .invalidArgument := by
  rw [exec_tmSyncSynchronize_of_some hc, if_pos marker, if_pos bad]

theorem tmSyncSynchronize_of_fits (nonempty : 1 ≤ fl.toNat) (fits : fl.toNat ≤ s.params.frameCap) (rnd : Bool) :
    exec (.tmSyncSynchronize ch al fl rnd) s =
      done (s.setCadu (caduOctets s.asmbuf c.frm al.toNat fl.toNat rnd)) (BitVec.ofNat 32 (al.toNat + fl.toNat)) := by
  rw [exec_tmSyncSynchronize_of_some hc, if_pos marker, if_neg (by omega)]

end

/-! ### The octets of the CADU (R196) -/

section
variable {al fl x : Nat}

theorem getElem?_caduOctets_of_marker (hx : x < al) (asm frame : Memory) (fl : Nat) (rnd : Bool) :
    (caduOctets asm frame al fl rnd)[x]? = some (asm.read x) := by
  rw [caduOctets, List.getElem?_append_left (by rwa [Memory.length_readBytes]), Memory.getElem?_readBytes, if_pos hx,
    Nat.zero_add]

/-- The whitening starts anew at the first octet of the frame: the marker takes no window of the sequence. -/
theorem getElem?_caduOctets_of_frame (behind : al ≤ x) (hx : x < al + fl) (asm frame : Memory) (rnd : Bool) :
    (caduOctets asm frame al fl rnd)[x]? = some
      (if rnd = true then frame.read (x - al) ^^^ prbsWindow prbsTm (x - al) else frame.read (x - al)) := by
  have octet : (frame.readBytes 0 fl)[x - al]? = some (frame.read (x - al)) := by
    rw [Memory.getElem?_readBytes, if_pos (by omega), Nat.zero_add]
  rw [caduOctets, List.getElem?_append_right (by rwa [Memory.length_readBytes]), Memory.length_readBytes]
  split
  · rw [getElem?_xorWithPrbs, octet, Option.map_some]
  · exact octet

end

theorem read_setCadu_caduOctets (s : State) (frame : Memory) (al fl : Nat) (rnd : Bool) (x : Nat) :
    (s.setCadu (caduOctets s.asmbuf frame al fl rnd)).cadu.read x =
      if x < al then s.asmbuf.read x
      else if x < al + fl then
        (if rnd = true then frame.read (x - al) ^^^ prbsWindow prbsTm (x - al) else frame.read (x - al))
      else s.cadu.read x := by
  rw [State.setCadu_cadu, Memory.read_writeBytes, length_caduOctets, Nat.zero_add, Nat.sub_zero,
    List.getD_eq_getElem?_getD]
  simp only [Nat.zero_le, true_and]
  by_cases inMarker : x < al
  · rw [if_pos (by omega), if_pos inMarker, getElem?_caduOctets_of_marker inMarker, Option.getD_some]
  · rw [if_neg inMarker]
    by_cases inFrame : x < al + fl
    · rw [if_pos inFrame, if_pos inFrame, getElem?_caduOctets_of_frame (Nat.not_lt.1 inMarker) inFrame, Option.getD_some]
    · rw [if_neg inFrame, if_neg inFrame]

/-- Settles O48: with both checks passed the command writes the CADU, of which every octet is known. -/
theorem tmSyncBuildsTheCadu : Obligations.TmSyncBuildsTheCadu := by
  intro ch al fl rnd c s hc even long short nonempty fits
  have marker := (asmLenOk_iff s.params al.toNat).2 ⟨even, long, short⟩
  have answers := tmSyncSynchronize_of_fits hc marker nonempty fits rnd
  refine ⟨_, ?_, read_setCadu_caduOctets s c.frm al.toNat fl.toNat rnd⟩
  rwa [State.setCadu, length_caduOctets] at answers

/-- Settles O49: one answer for each length check that fails, in their order. -/
theorem tmSyncErrors : Obligations.TmSyncErrors := by
  intro ch al fl rnd c s hc
  refine ⟨fun bad => ?marker, fun even long short bad => ?frameLen⟩
  case marker =>
    refine tmSyncSynchronize_of_badMarker hc (fun ok => ?_) fl rnd
    obtain ⟨even, long, short⟩ := (asmLenOk_iff s.params al.toNat).1 ok
    omega
  case frameLen =>
    exact tmSyncSynchronize_of_badFrameLen hc ((asmLenOk_iff s.params al.toNat).2 ⟨even, long, short⟩) bad rnd

end Sys2Proof.Machine
end

section
/-! SUPPORT. Error responses (60_exceptions.md R245 to R252): the status codes, a reserved opcode at the port, the legal
response registers, and what a command that ends with an error has written. -/

namespace Sys2Proof.Machine

open Claims (LockoutEdge PassEdge PositiveEdge ReservedOp SetVrInLockout ValidFor bypassBit ctlBit seqDelta)

/-! ### Statuses and reserved opcodes (R246, R252) -/

/-- Settles O8: the table of codes is read off. -/
theorem statusCodesFollowTheTable : Obligations.StatusCodesFollowTheTable := by
  unfold Obligations.StatusCodesFollowTheTable
  decide

theorem step_of_rejected {s : State} {w : Command} {rest : List HostEvent} {e : DecodeError}
    (h : s.hostIn = .command w :: rest) (hw : decode w = .error e) :
    step s = illegalCommand (s.withHostIn rest) e := by
  unfold step
  rw [h]
  simp only [hw]

/-- Settles O7: the decoder rejects the word, and the step raises `IllegalOp` on the state without it. -/
theorem reservedOpcodeAnswersIllegalOp : Obligations.ReservedOpcodeAnswersIllegalOp := by
  intro s w rest presented reserved
  obtain ⟨rejects, -⟩ := decoderRejectsExactlyReservedOpcodes w
  exact step_of_rejected presented (rejects reserved)

/-! ### The response registers (R246, R248) -/

theorem State.responseOk_resetPulse (s : State) : s.resetPulse.responseOk = true := rfl

/-- Settles O15, by the branches of the step: idling keeps the registers, reset clears them, and every response is
legal. -/
theorem everyStepKeepsResponseRegisters : Obligations.EveryStepKeepsResponseRegisters := by
  intro s t hs h
  rcases step_next h with rfl | ⟨rest, rfl⟩ | ⟨rest, rfl⟩ | ⟨i, rest, h⟩
  · exact hs
  · exact State.responseOk_resetPulse _
  · exact State.responseOk_respond _ (.inr rfl)
  · obtain ⟨u, st, v, -, value, rfl⟩ := exec_completes h
    exact u.responseOk_respond value

/-! ### Errors of the other commands (R249) -/

/-- Only COP1_PROCESS_FRAME has an effect and ends with an error. -/
theorem Effect.eq_of_error {i : Instr} {s u : State} {st : Status} (h : Effect s i u st) (failed : st ≠ .ok)
    (other : ¬∃ a d, i = .cop1ProcessFrame a d) : u = s := by
  cases h with
  | keeps => rfl
  | farm a d => exact absurd ⟨a, d, rfl⟩ other
  | space | payload | frame | initClcw | deliver | extract | cadu | init | start | add | complete =>
    exact absurd rfl failed

/-- The state `t` differs from `s` in an error response alone. -/
def State.OnlyRaises (s t : State) : Prop := t = { s with status := t.status, result := 0, rspValid := true }

theorem State.onlyRaises_respond (s : State) (st : Status) : s.OnlyRaises (s.respond st 0) := rfl

theorem exec_onlyRaises {i : Instr} {s t : State} (h : exec i s = .next t) (failed : t.status ≠ 0)
    (other : ¬∃ a d, i = .cop1ProcessFrame a d) : s.OnlyRaises t := by
  obtain ⟨u, st, v, effect, value, rfl⟩ := exec_completes h
  have error : st ≠ .ok := by rintro rfl; exact failed rfl
  obtain rfl := effect.eq_of_error error other
  obtain rfl := value.resolve_left error
  exact State.onlyRaises_respond u st

/-! ### Errors of COP1_PROCESS_FRAME (R249) -/

section
variable {s t : State} {a : Bool} {d : ServiceDescriptor}

theorem seqDelta_of_positive (h : classify (tcSeq s.tcbuf) s.clcw.report = .positive) :
    1 ≤ seqDelta s ∧ seqDelta s ≤ 62 := by
  rw [classify_tcbuf] at h
  split_ifs at h
  omega

theorem seqDelta_of_lockout (h : classify (tcSeq s.tcbuf) s.clcw.report = .lockout) :
    63 ≤ seqDelta s ∧ seqDelta s ≤ 192 := by
  rw [classify_tcbuf] at h
  split_ifs at h
  omega

theorem processControl_onlyRaises (h : processControl s = .next t) (failed : t.status ≠ 0)
    (bypass : bypassBit s.tcbuf = 1) (control : ctlBit s.tcbuf = 1) (outside : ¬SetVrInLockout s) :
    s.OnlyRaises t := by
  rcases processControl_next h with ⟨-, rfl⟩ | ⟨first, second, locked, rfl⟩ | ⟨-, -, -, rfl⟩ | rfl
  · exact absurd rfl failed
  · have octet5 := (oct_eq_toNat_iff _ 5 0x82).2 first
    have octet6 := (oct_eq_toNat_iff _ 6 0).2 second
    exact absurd ⟨bypass, control, octet5, octet6, locked⟩ outside
  · exact absurd rfl failed
  · exact s.onlyRaises_respond _

theorem processBypassData_status (h : processBypassData a d s = .next t) : t.status = 0 := by
  rcases processBypassData_next h with ⟨-, rfl⟩ | ⟨-, rfl⟩ <;> rfl

theorem processSequenced_onlyRaises (h : processSequenced a d s = .next t) (failed : t.status ≠ 0)
    (sequenced : bypassBit s.tcbuf = 0) (no_positive : ¬PositiveEdge s) (no_lockout : ¬LockoutEdge s)
    (no_backpressure : ¬(PassEdge s ∧ a = false)) : s.OnlyRaises t := by
  rcases processSequenced_next h with ⟨-, rfl⟩ | ⟨unlocked, ⟨-, -, rfl⟩ | ⟨pass, dest, rfl⟩ | ⟨positive, rfl⟩ |
    ⟨-, rfl⟩ | ⟨lockout, rfl⟩⟩
  · exact s.onlyRaises_respond _
  · exact absurd rfl failed
  · have delta := seqDelta_eq_zero_of_pass pass
    exact absurd ⟨⟨sequenced, unlocked, delta.ge, delta.le⟩, dest⟩ no_backpressure
  · exact absurd ⟨sequenced, unlocked, seqDelta_of_positive positive⟩ no_positive
  · exact s.onlyRaises_respond _
  · exact absurd ⟨sequenced, unlocked, seqDelta_of_lockout lockout⟩ no_lockout

/-- Outside the four situations of R249, an error of COP1_PROCESS_FRAME writes nothing. -/
theorem processFrame_onlyRaises (h : execCop1ProcessFrame a d s = .next t) (failed : t.status ≠ 0)
    (outside : ValidFor s.tcbuf d →
      ¬PositiveEdge s ∧ ¬LockoutEdge s ∧ ¬SetVrInLockout s ∧ ¬(PassEdge s ∧ a = false)) : s.OnlyRaises t := by
  rcases execCop1ProcessFrame_next h with ⟨-, rfl⟩ | ⟨valid, path⟩
  · exact s.onlyRaises_respond _
  · obtain ⟨no_positive, no_lockout, no_setVr, no_backpressure⟩ := outside ((tcValid_iff_validFor _ _).1 valid)
    rcases path with ⟨bypass, control, h⟩ | ⟨-, -, h⟩ | ⟨sequenced, h⟩
    · exact processControl_onlyRaises h failed ((tcBypass_iff _).1 bypass) ((tcCtlCmd_iff _).1 control) no_setVr
    · exact absurd (processBypassData_status h) failed
    · exact processSequenced_onlyRaises h failed ((tcBypass_eq_false_iff _).1 sequenced) no_positive no_lockout
        no_backpressure

end

/-- Settles O17: the four situations are outcomes of COP1_PROCESS_FRAME; outside them neither it nor another command has
an effect and ends with an error. -/
theorem errorsChangeNothingButTheFourCases : Obligations.ErrorsChangeNothingButTheFourCases := by
  refine ⟨fun a d s valid => ⟨?positive, ?lockout, ?setVr, ?backpressure⟩, fun i s t h failed outside => ?others⟩
  case positive =>
    rintro ⟨sequenced, unlocked, ahead, near⟩
    exact (processFrame_of_sequenced a valid sequenced).trans (processSequenced_of_positive unlocked a d ahead near)
  case lockout =>
    rintro ⟨sequenced, unlocked, far, inArea⟩
    exact (processFrame_of_sequenced a valid sequenced).trans (processSequenced_of_lockoutArea unlocked a d far inArea)
  case setVr =>
    rintro ⟨bypass, control, first, second, locked⟩
    have path := processFrame_of_control a valid bypass control
    rw [processControl_of_setVr first second, locked] at path
    exact path
  case backpressure =>
    rintro ⟨sequenced, unlocked, -, inSequence⟩ rfl
    exact (processFrame_of_sequenced false valid sequenced).trans
      (processSequenced_of_pass unlocked false d (Nat.le_zero.1 inSequence))
  case others =>
    by_cases frame : ∃ a d, i = .cop1ProcessFrame a d
    · obtain ⟨a, d, rfl⟩ := frame
      exact processFrame_onlyRaises h failed (outside a d rfl)
    · exact exec_onlyRaises h failed frame

end Sys2Proof.Machine
end

section
/-! SUPPORT. The checks of TM_SDLP (47_tm_sdlp.md R205 to R227): the layout formulas against those of the statements,
the context that SDLP_INIT_CHANNEL leaves, the errors of the commands in their order, and the values of
SDLP_GET_STATUS. -/

namespace Sys2Proof.Machine

open Claims (AddCommand Answers hdrOctets initOctet oct trailOctets)

section
variable (g : ChannelConfig)

/-! ### The layout (R206) -/

theorem headerLen_eq_hdrOctets : headerLen g = hdrOctets g := by
  unfold headerLen hdrOctets
  split <;> omega

theorem trailerLen_eq_trailOctets : trailerLen g = trailOctets g := by
  unfold trailerLen trailOctets
  cases g.ocf <;> cases g.fecf <;> rfl

theorem layoutDataLen_eq : layoutDataLen g = g.frameLen.toNat - hdrOctets g - trailOctets g := by
  rw [layoutDataLen, headerLen_eq_hdrOctets, trailerLen_eq_trailOctets]

theorem layoutOcfOff_eq :
    layoutOcfOff g = if g.ocf = true then g.frameLen.toNat - 4 - 2 * g.fecf.toNat else 0 := by
  unfold layoutOcfOff
  cases g.fecf <;> rfl

/-! ### The header octets (R207, R208) -/

theorem oct_cleared (a : Nat) : oct Memory.cleared a = 0 := rfl

/-- The header with its first two octets alone: version 1, the identifiers and the OCF flag (R208). -/
def identifierHeader : Memory :=
  tmSetOcfFlag (tmSetVcid (tmSetScid (tmSetVersion Memory.cleared 1) g.scid) g.vcid) g.ocf

theorem initHeader_eq : initHeader g = tmSetSyncFlag (if g.sechdr then
    tmSetSechdrLen (tmSetSechdrFlag (identifierHeader g) true) g.sechdrLen else identifierHeader g) g.vca := rfl

theorem oct_identifierHeader (a : Nat) : oct (identifierHeader g) a =
    if a = 0 then 64 + g.scid.toNat / 16
    else if a = 1 then (g.scid.toNat % 16) * 16 + g.vcid.toNat * 2 + g.ocf.toNat else 0 := by
  have scid := g.scid.isLt
  have vcid := g.vcid.isLt
  simp [identifierHeader, oct_tmSetOcfFlag, oct_tmSetVcid, oct_tmSetScid, oct_tmSetVersion, oct_cleared]
  split_ifs <;> omega

theorem oct_initHeader (a : Nat) : oct (initHeader g) a = initOctet g a := by
  rw [initHeader_eq, initOctet]
  cases g.sechdr
  case false =>
    simp [oct_tmSetSyncFlag, oct_identifierHeader]
    split_ifs <;> omega
  case true =>
    simp [oct_tmSetSyncFlag, oct_tmSetSechdrLen, oct_tmSetSechdrFlag, oct_identifierHeader]
    split_ifs <;> omega

/-! ### The checks of a configuration (R207) -/

/-- The secondary header flag and length of a configuration agree. -/
def HeaderAgrees : Prop := g.sechdr = true ∧ g.sechdrLen ≠ 0 ∨ g.sechdr = false ∧ g.sechdrLen = 0

variable {g} (p : Params)

theorem initCheck_of_missing_length (flag : g.sechdr = true) (len : g.sechdrLen = 0) :
    initCheck p g = some .invalidLength := by
  rw [initCheck, flag, len]
  rfl

theorem initCheck_of_stray_length (flag : g.sechdr = false) (len : g.sechdrLen ≠ 0) :
    initCheck p g = some .invalidSecondaryHeader := by
  rw [initCheck, flag, bne, beq_false_of_ne len]
  rfl

/-- Where flag and length agree, the length of the frame decides. -/
theorem initCheck_of_headerAgrees (agrees : HeaderAgrees g) : initCheck p g =
    if p.frameCap < g.frameLen.toNat ∨ g.frameLen.toNat < hdrOctets g + trailOctets g + 1 then some .invalidLength
    else none := by
  rw [initCheck, headerLen_eq_hdrOctets, trailerLen_eq_trailOctets, ite_or]
  rcases agrees with ⟨flag, len⟩ | ⟨flag, len⟩
  · rw [flag, bne, beq_false_of_ne len]
    rfl
  · rw [flag, len]
    rfl

end

/-! ### SDLP_INIT_CHANNEL (R207) -/

section
variable {s : State} {ch : BitVec 8} {c : Channel} {g : ChannelConfig} (hc : s.chans[ch.toNat]? = some c)
include hc

theorem initChannel_of_failed {st : Status} (failed : initCheck s.params g = some st) :
    exec (.sdlpInitChannel ch g) s = raise s st := by
  refine (withChannel_of_some hc _).trans ?_
  simp only [failed]

theorem initChannel_of_passed (passed : initCheck s.params g = none) :
    exec (.sdlpInitChannel ch g) s = done (s.setChannel ch (initialisedChannel s.params g)) 0 := by
  refine (withChannel_of_some hc _).trans ?_
  simp only [passed]

end

/-- Settles O50: the configuration passes the checks, and the context left has the layout and the header octets. -/
theorem initChannelWritesTheContext : Obligations.InitChannelWritesTheContext := by
  intro ch g c s hc agrees fits holds
  have passed : initCheck s.params g = none := (initCheck_of_headerAgrees s.params agrees).trans (if_neg (by omega))
  have run := initChannel_of_passed hc passed
  rw [initialisedChannel, headerLen_eq_hdrOctets, layoutDataLen_eq, layoutOcfOff_eq, layoutFecfOff] at run
  exact ⟨initHeader g, Memory.cleared, run, oct_initHeader g, oct_cleared⟩

/-- Settles O51: each failing check is the first of its order. -/
theorem initChannelErrors : Obligations.InitChannelErrors := by
  intro ch g c s hc
  refine ⟨fun flag len => ?missing, fun flag len => ?stray, fun agrees outside => ?frameLen⟩
  case missing => exact initChannel_of_failed hc (initCheck_of_missing_length s.params flag len)
  case stray => exact initChannel_of_failed hc (initCheck_of_stray_length s.params flag len)
  case frameLen =>
    exact initChannel_of_failed hc ((initCheck_of_headerAgrees s.params agrees).trans (if_pos outside))

/-! ### The other commands, on a channel of the block -/

/-- The three add commands are one operation (R213 to R215). -/
theorem exec_of_addCommand {i : Instr} {ch : BitVec 8} {len : Half} {k : Bool} (h : AddCommand i ch len k) (s : State) :
    exec i s = addData ch len k s := by
  rcases h with ⟨rfl, rfl⟩ | ⟨rfl, rfl⟩ | ⟨rfl, rfl⟩ <;> rfl

section
variable {s : State} {ch : BitVec 8} {c : Channel} (hc : s.chans[ch.toNat]? = some c)
include hc

/-! ### State errors (R205, R209, R212, R216, R222) -/

theorem startFrame_of_not_init (init : c.isInit = false) :
    exec (.sdlpStartFrame ch) s = raise s .frameNotInitialized := by
  refine (withChannel_of_some hc _).trans ?_
  simp only [init, Bool.not_false, if_true]

theorem completeFrame_of_not_init (init : c.isInit = false) (present : Bool) (ocf : Word) :
    exec (.sdlpCompleteFrame ch present ocf) s = raise s .frameNotInitialized := by
  refine (withChannel_of_some hc _).trans ?_
  simp only [init, Bool.not_false, if_true]

theorem completeFrame_of_missing_ocf (init : c.isInit = true) (flag : c.ocfFlag = true) (ocf : Word) :
    exec (.sdlpCompleteFrame ch false ocf) s = raise s .invalidArgument := by
  refine (withChannel_of_some hc _).trans ?_
  simp only [init, flag, Bool.not_true, Bool.not_false, Bool.and_self, Bool.false_eq_true, if_false, if_true]

theorem addData_of_not_init (init : c.isInit = false) (len : Half) (k : Bool) :
    addData ch len k s = raise s .frameNotInitialized := by
  rw [addData, withChannel_of_some hc]
  simp only [init, Bool.not_false, if_true]

theorem addData_of_not_ready (init : c.isInit = true) (ready : c.isReady = false) (len : Half) (k : Bool) :
    addData ch len k s = raise s .frameNotReady := by
  rw [addData, withChannel_of_some hc]
  simp only [init, ready, Bool.not_true, Bool.not_false, Bool.false_eq_true, if_false, if_true]

/-- On a ready channel the length is checked, then the room in the ring (R212). -/
theorem addData_of_ready (init : c.isInit = true) (ready : c.isReady = true) (len : Half) (k : Bool) :
    addData ch len k s =
      if len.toNat = 0 ∨ s.params.inbufCap < len.toNat then raise s .invalidArgument
      else if c.ovfFree.toNat < len.toNat - min len.toNat c.free.toNat then raise s .overflowFull
      else if c.overruns s.params (min len.toNat c.free.toNat) then .fault .outOfBuffer
      else done (s.setChannel ch (c.addUnit s.params s.inbuf len.toNat k))
        (BitVec.ofNat 32 (min len.toNat c.free.toNat)) := by
  rw [addData, withChannel_of_some hc]
  simp only [init, ready, Bool.not_true, Bool.false_eq_true, if_false]

/-! ### SDLP_GET_STATUS (R227) -/

theorem getStatus_of_value {sel : Half} {v : Word} (value : statusValue s.params s.mcfc c sel.toNat = some v) :
    exec (.sdlpGetStatus ch sel) s = done s v := by
  refine (withChannel_of_some hc _).trans ?_
  simp only [value]

theorem getStatus_of_no_value {sel : Half} (no_value : statusValue s.params s.mcfc c sel.toNat = none) :
    exec (.sdlpGetStatus ch sel) s = raise s .invalidArgument := by
  refine (withChannel_of_some hc _).trans ?_
  simp only [no_value]

/-- A selector of a register answers the register's number. -/
theorem answers_of_statusValue {w n : Nat} {x : BitVec w} {sel : Half}
    (register : statusValue s.params s.mcfc c sel.toNat = some (x.setWidth 32)) (value : x.toNat = n) :
    Answers (.sdlpGetStatus ch sel) s s .ok n :=
  answers_ok_of_done (getStatus_of_value hc register) value

end

/-- Settles O55: each error is the branch of the first check that fails. -/
theorem sdlpStateErrors : Obligations.SdlpStateErrors := by
  intro i ch len k present ocf c s hc
  refine ⟨fun init => ⟨?start, ?complete, fun add => ?add⟩, ?ocf, fun add init => ⟨fun unready => ?unready,
    fun ready => ⟨fun bad => ?length, fun pos le full => ?full⟩⟩⟩
  case start => exact startFrame_of_not_init hc init
  case complete => exact completeFrame_of_not_init hc init present ocf
  case add => exact (exec_of_addCommand add s).trans (addData_of_not_init hc init len k)
  case ocf =>
    rintro init flag rfl
    exact completeFrame_of_missing_ocf hc init flag ocf
  case unready => exact (exec_of_addCommand add s).trans (addData_of_not_ready hc init unready len k)
  all_goals have checks := (exec_of_addCommand add s).trans (addData_of_ready hc init ready len k)
  case length => exact checks.trans (if_pos bad)
  case full => exact checks.trans ((if_neg (by omega)).trans (if_pos full))

/-- The flags of selector 0, as a number. -/
theorem Channel.toNat_flags (c : Channel) :
    (BitVec.ofBool c.fhpSet ++ BitVec.ofBool c.isReady ++ BitVec.ofBool c.isInit : BitVec 3).toNat =
      c.isInit.toNat + 2 * c.isReady.toNat + 4 * c.fhpSet.toNat := by
  simp only [toNat_append, toNat_ofBool]
  omega

theorem Channel.partialOctets_of_cons {c : Channel} {g : Segment} {r : List Segment} (h : c.seg = g :: r) :
    c.partialOctets = if g.cont = true then g.n.toNat else 0 := by
  rw [Channel.partialOctets, h]

theorem Channel.partialOctets_of_nil {c : Channel} (h : c.seg = []) : c.partialOctets = 0 := by
  rw [Channel.partialOctets, h]

theorem statusValue_eq_none (p : Params) (mcfc : BitVec 8) (c : Channel) {sel : Nat} (h : 13 < sel) :
    statusValue p mcfc c sel = none := by
  unfold statusValue
  split
  case h_15 => rfl
  all_goals omega

/-- Settles O56, selector by selector. -/
theorem getStatusReturnsTheSelectedValue : Obligations.GetStatusReturnsTheSelectedValue := by
  intro ch sel c s hc
  have register {w : Nat} {x : BitVec w} (sel : Half)
      (h : statusValue s.params s.mcfc c sel.toNat = some (x.setWidth 32)) :
      Answers (.sdlpGetStatus ch sel) s s .ok x.toNat := answers_of_statusValue hc h rfl
  refine ⟨answers_of_statusValue hc rfl c.toNat_flags, register 1 rfl, register 2 rfl, register 3 rfl, register 4 rfl,
    register 5 rfl, register 6 rfl, register 7 rfl, fun g r queued => ?fragment, fun empty => ?no_fragment, ?count,
    register 10 rfl, register 11 rfl, ?segments, register 13 rfl, fun beyond => ?beyond⟩
  case fragment =>
    rw [← Channel.partialOctets_of_cons queued]
    exact getStatus_of_value hc rfl
  case no_fragment =>
    rw [← Channel.partialOctets_of_nil empty]
    exact getStatus_of_value hc rfl
  case count => exact getStatus_of_value hc rfl
  case segments => exact getStatus_of_value hc rfl
  case beyond => exact getStatus_of_no_value hc (statusValue_eq_none _ _ _ beyond)

end Sys2Proof.Machine
end

section
/-! SUPPORT. The frame under assembly (47_tm_sdlp.md R209 to R217): octets placed at the write cursor with the first
header pointer they set, the units of the add commands, and the refill from the spill ring. -/

namespace Sys2Proof.Machine

open Claims (consumed firstPacketStart oct stored)

/-! ### Octets at the write cursor (R210, R211, R212) -/

/-- The write cursor and the free octets of a channel lie in the data field, behind the primary header (R27 a, R206). -/
structure Channel.InFrame (p : Params) (c : Channel) : Prop where
  header : 6 ≤ c.dataOff.toNat
  started : c.dataOff.toNat ≤ c.cur.toNat
  room : c.cur.toNat + c.free.toNat ≤ p.frameCap

theorem Channel.inFrame_of_ok {p : Params} {c : Channel} (h : c.ok p = true) (hi : c.isInit = true) : c.InFrame p := by
  obtain ⟨-, layout, free, cur, -⟩ := (Channel.ok_iff_of_init hi).1 h
  obtain ⟨header, -, data_end, frameLen, -⟩ := Channel.layout_bounds layout
  exact ⟨header, by omega, by omega⟩

/-- The frame `f` is the frame of `c` with `n` octets at the write cursor, and with the first header pointer at the
octet `mark` of them, if a packet starts there and no pointer was set in this cycle. -/
structure Filled (c : Channel) (mark : Option Nat) (n : Nat) (octet : Nat → Octet) (f : Memory) : Prop where
  octets : ∀ x, x ≠ 4 → x ≠ 5 →
    f.read x = if c.cur.toNat ≤ x ∧ x < c.cur.toNat + n then octet (x - c.cur.toNat) else c.frm.read x
  pointer : ∀ o, mark = some o → c.fhpSet = false →
    oct f 4 = oct c.frm 4 / 8 * 8 + (c.cur.toNat - c.dataOff.toNat + o) / 256 ∧
      oct f 5 = (c.cur.toNat - c.dataOff.toNat + o) % 256
  no_pointer : mark = none ∨ c.fhpSet = true → oct f 4 = oct c.frm 4 ∧ oct f 5 = oct c.frm 5

theorem Filled.refl (c : Channel) (octet : Nat → Octet) : Filled c none 0 octet c.frm where
  octets x _ _ := by rw [if_neg (by omega)]
  pointer o h := by cases h
  no_pointer _ := ⟨rfl, rfl⟩

theorem Filled.congr {c : Channel} {mark : Option Nat} {n : Nat} {octet octet' : Nat → Octet} {f : Memory}
    (h : Filled c mark n octet f) (same : ∀ i < n, octet i = octet' i) : Filled c mark n octet' f where
  octets x hx4 hx5 := by
    rw [h.octets x hx4 hx5]
    split
    · exact same _ (by omega)
    · rfl
  pointer := h.pointer
  no_pointer := h.no_pointer

/-- Octets placed after others: one run of octets, whose pointer is the first that was set. -/
theorem Filled.trans {c c' : Channel} {mark mark' : Option Nat} {n n' : Nat} {octet octet' : Nat → Octet} {f : Memory}
    (h : Filled c mark n octet c'.frm) (h' : Filled c' mark' n' octet' f) (started : c.dataOff.toNat ≤ c.cur.toNat)
    (cur : c'.cur.toNat = c.cur.toNat + n) (dataOff : c'.dataOff = c.dataOff)
    (fhpSet : c'.fhpSet = (c.fhpSet || mark.isSome)) :
    Filled c (mark.orElse fun _ => mark'.map (n + ·)) (n + n')
      (fun i => if i < n then octet i else octet' (i - n)) f where
  octets x hx4 hx5 := by
    rw [h'.octets x hx4 hx5, h.octets x hx4 hx5, cur]
    by_cases first : c.cur.toNat ≤ x ∧ x < c.cur.toNat + n
    · rw [if_neg (by omega), if_pos first, if_pos (by omega), if_pos (by omega)]
    · rw [if_neg first]
      by_cases second : c.cur.toNat + n ≤ x ∧ x < c.cur.toNat + (n + n')
      · rw [if_pos (by omega), if_pos (by omega), if_neg (by omega), Nat.sub_sub]
      · rw [if_neg (by omega), if_neg (by omega)]
  pointer o set clear := by
    cases mark with
    | some o₁ =>
      obtain ⟨same4, same5⟩ := h'.no_pointer (.inr (by simp [fhpSet]))
      rw [same4, same5]
      exact h.pointer o set clear
    | none =>
      obtain ⟨o', rfl, rfl⟩ := Option.map_eq_some_iff.1 set
      obtain ⟨same4, same5⟩ := h.no_pointer (.inl rfl)
      have later := h'.pointer o' rfl (by simp [fhpSet, clear])
      rw [cur, dataOff, same4] at later
      have offset : c.cur.toNat + n - c.dataOff.toNat + o' = c.cur.toNat - c.dataOff.toNat + (n + o') := by omega
      rwa [offset] at later
  no_pointer unset := by
    have first : mark = none ∨ c.fhpSet = true := unset.imp_left fun unmarked => by cases mark <;> simp_all
    have second : mark' = none ∨ c'.fhpSet = true := by
      rcases unset with unmarked | set
      · left; cases mark <;> simp_all
      · right; simp [fhpSet, set]
    obtain ⟨same4, same5⟩ := h.no_pointer first
    obtain ⟨same4', same5'⟩ := h'.no_pointer second
    exact ⟨same4'.trans same4, same5'.trans same5⟩

/-- The data field with octets placed at the write cursor. -/
theorem Filled.readBytes {p : Params} {c : Channel} {mark : Option Nat} {n : Nat} {octet : Nat → Octet} {f : Memory}
    (h : Filled c mark n octet f) (inFrame : c.InFrame p) :
    f.readBytes c.dataOff.toNat (c.cur.toNat + n - c.dataOff.toNat) =
      c.frm.readBytes c.dataOff.toNat (c.cur.toNat - c.dataOff.toNat) ++ (List.range n).map octet := by
  obtain ⟨header, started, -⟩ := inFrame
  have length : c.cur.toNat + n - c.dataOff.toNat = c.cur.toNat - c.dataOff.toNat + n := by omega
  have cursor : c.dataOff.toNat + (c.cur.toNat - c.dataOff.toNat) = c.cur.toNat := by omega
  have before : f.readBytes c.dataOff.toNat (c.cur.toNat - c.dataOff.toNat) =
      c.frm.readBytes c.dataOff.toNat (c.cur.toNat - c.dataOff.toNat) :=
    Memory.readBytes_congr fun i hi => by rw [h.octets _ (by omega) (by omega), if_neg (by omega)]
  have placed : f.readBytes c.cur.toNat n = (List.range n).map octet :=
    List.map_congr_left fun i hi => by
      have inside := List.mem_range.1 hi
      rw [h.octets _ (by omega) (by omega), if_pos (by omega), Nat.add_sub_cancel_left]
  rw [length, Memory.readBytes_add, before, cursor, placed]

/-- The channel with its first header pointer set by a packet that starts at the cursor, or unchanged. -/
def Channel.marked (c : Channel) (starts : Bool) : Channel := if starts then c.setFhpIfNeeded else c

@[simp] theorem Channel.marked_cur (c : Channel) (b : Bool) : (c.marked b).cur = c.cur := by
  cases b
  · rfl
  · exact c.setFhpIfNeeded_cur

theorem oct_marked_frm {c : Channel} (b : Bool) (fits : c.cur.toNat - c.dataOff.toNat < 2048) (x : Nat) :
    oct (c.marked b).frm x = if b = true ∧ c.fhpSet = false then
      (if x = 4 then oct c.frm 4 / 8 * 8 + (c.cur.toNat - c.dataOff.toNat) / 256
        else if x = 5 then (c.cur.toNat - c.dataOff.toNat) % 256 else oct c.frm x) else oct c.frm x := by
  cases b
  · simp [Channel.marked]
  · cases hs : c.fhpSet
    · simp [Channel.marked, hs, oct_tmSetFhp, Nat.mod_eq_of_lt fits]
    · simp [Channel.marked, hs]

theorem filled_marked_writeBytes {p : Params} {c : Channel} (hcap : p.frameCap ≤ 2048) (inFrame : c.InFrame p)
    (b : Bool) (n : Nat) (octet : Nat → Octet) : Filled c (if b then some 0 else none) n octet
      ((c.marked b).frm.writeBytes c.cur.toNat ((List.range n).map octet)) := by
  obtain ⟨header, started, room⟩ := inFrame
  have marked := oct_marked_frm (c := c) b (by omega)
  have outside (x : Nat) (hx : x < 6) : oct ((c.marked b).frm.writeBytes c.cur.toNat ((List.range n).map octet)) x =
      oct (c.marked b).frm x := by
    rw [oct, Memory.read_writeBytes, if_neg (by omega), oct]
  refine ⟨fun x hx4 hx5 => ?octets, fun o set clear => ?pointer, fun unset => ?no_pointer⟩
  case octets =>
    have same : (c.marked b).frm.read x = c.frm.read x := BitVec.eq_of_toNat_eq (by
      have read := marked x
      rw [if_neg hx4, if_neg hx5, ite_self] at read
      exact read)
    rw [Memory.read_writeBytes, same, List.length_map, List.length_range]
    split
    · have inside : x - c.cur.toNat < n := by omega
      simp [inside]
    · rfl
  case pointer =>
    have starts : b = true ∧ o = 0 := by cases b <;> simp_all
    obtain ⟨rfl, rfl⟩ := starts
    rw [outside 4 (by omega), outside 5 (by omega), marked, marked]
    simp [clear]
  case no_pointer =>
    have unmarked : ¬(b = true ∧ c.fhpSet = false) := by cases b <;> simp_all
    rw [outside 4 (by omega), outside 5 (by omega), marked, marked, if_neg unmarked, if_neg unmarked]
    exact ⟨rfl, rfl⟩

/-! ### The ring (10_state.md R25) -/

theorem Memory.read_writeRing (m : Memory) (cap t : Nat) {bs : List Octet} (fits : bs.length ≤ cap) {j : Nat}
    (hj : j < bs.length) : (m.writeRing cap (t % cap) bs).read ((t + j) % cap) = bs[j] := by
  have same := congrArg (·[j]?) (Memory.readRing_writeRing_same m cap (t % cap) bs fits)
  simpa only [Memory.getElem?_readRing, if_pos hj, List.getElem?_eq_getElem hj, Option.some.injEq, Nat.mod_add_mod]
    using same

/-- The ring read on past what it held: the octets that were written behind them. -/
theorem Memory.readRing_writeRing_append (m : Memory) (cap h n : Nat) (bs : List Octet) (fits : n + bs.length ≤ cap) :
    (m.writeRing cap ((h + n) % cap) bs).readRing cap h (n + bs.length) = m.readRing cap h n ++ bs := by
  have before : (m.writeRing cap ((h + n) % cap) bs).readRing cap h n = m.readRing cap h n := by
    refine Memory.readRing_congr fun i hi => Memory.read_writeRing_of_ne _ _ _ _ _ fun j hj same => ?_
    rw [Nat.mod_add_mod, Nat.add_assoc] at same
    have congruent : n + j ≡ i [MOD cap] := Nat.ModEq.add_left_cancel' h same
    have equal := Nat.ModEq.eq_of_lt_of_lt congruent (by omega) (by omega)
    omega
  rw [Memory.readRing_add, before, Memory.readRing_writeRing_same _ _ _ _ (by omega)]

theorem Channel.ovfTail_eq (p : Params) (c : Channel) :
    c.ovfTail p = (c.ovfHead.toNat + stored p c) % p.ovfCap := rfl

/-! ### A unit added (R212) -/

theorem Channel.addUnit_frm (p : Params) (c : Channel) (m : Memory) (len : Nat) (k : Bool) :
    (c.addUnit p m len k).frm = (c.marked (k && decide (0 < min len c.free.toNat))).frm.writeBytes c.cur.toNat
      (m.readBytes 0 (min len c.free.toNat)) := by
  rw [Channel.addUnit, Channel.spill_frm]
  exact congrArg (fun cur : Half => (c.marked _).frm.writeBytes cur.toNat _) (c.marked_cur _)

theorem filled_addUnit {p : Params} {c : Channel} (hcap : p.frameCap ≤ 2048) (inFrame : c.InFrame p) (m : Memory)
    (len : Nat) (k : Bool) : Filled c (if k && decide (0 < min len c.free.toNat) then some 0 else none)
      (min len c.free.toNat) m.read (c.addUnit p m len k).frm := by
  rw [Channel.addUnit_frm]
  exact (filled_marked_writeBytes hcap inFrame _ _ _).congr fun i _ => congrArg m.read (Nat.zero_add i)

theorem Channel.addUnit_ovf (p : Params) (c : Channel) (m : Memory) (len : Nat) (k : Bool) :
    (c.addUnit p m len k).ovf = c.ovf.writeRing p.ovfCap ((c.ovfHead.toNat + stored p c) % p.ovfCap)
      (m.readBytes (min len c.free.toNat) (len - min len c.free.toNat)) := by
  rw [Channel.addUnit_eq, ← Channel.ovfTail_eq]
  split
  · rename_i fits
    rw [Nat.min_eq_left fits, Nat.sub_self]
    rfl
  · rfl

/-- What is left of a unit that fits the ring fits beside what the ring holds. -/
theorem Channel.stored_add_le {p : Params} {c : Channel} (h : c.ok p = true) (hi : c.isInit = true) {n : Nat}
    (room : n ≤ c.ovfFree.toNat) : stored p c + n ≤ p.ovfCap := by
  obtain ⟨-, -, -, -, ovfFree, -⟩ := (Channel.ok_iff_of_init hi).1 h
  rw [stored]
  omega

theorem Channel.isInit_of_isReady {p : Params} {c : Channel} (h : c.ok p = true) (ready : c.isReady = true) :
    c.isInit = true := by
  simp only [Channel.ok, Channel.cycleOk, Bool.and_eq_true] at h
  obtain ⟨⟨-, -, ready_init⟩, -⟩ := h
  simpa [ready] using ready_init

/-- The context after a unit of at least one octet was added: the octets aside, what moved in numbers. -/
theorem Channel.addUnit_eq_of_pos (p : Params) (c : Channel) (m : Memory) {len : Nat} (pos : 1 ≤ len) (k : Bool) :
    c.addUnit p m len k =
      { c with
        fhpSet := c.fhpSet || (k && decide (0 < c.free.toNat)),
        frm := (c.addUnit p m len k).frm,
        ovf := (c.addUnit p m len k).ovf,
        cur := BitVec.ofNat 16 (c.cur.toNat + min len c.free.toNat),
        free := BitVec.ofNat 16 (c.free.toNat - min len c.free.toNat),
        ovfFree := BitVec.ofNat 17 (c.ovfFree.toNat - (len - min len c.free.toNat)),
        seg := if len ≤ c.free.toNat then c.seg
          else c.seg ++ [{ n := BitVec.ofNat 16 (len - c.free.toNat), isPacket := k,
                           cont := decide (0 < c.free.toNat) }] } := by
  have starts : decide (0 < min len c.free.toNat) = decide (0 < c.free.toNat) := decide_eq_decide.2 (by omega)
  have added := Channel.addUnit_eq p c m len k
  have ring := congrArg Channel.ovf added
  have segments := congrArg Channel.seg added
  dsimp only at ring segments
  rw [← ring, ← segments, starts] at added
  rw [starts] at segments
  refine added.trans ?_
  rw [segments]
  by_cases fits : len ≤ c.free.toNat
  · simp only [if_pos fits]
  · simp only [if_neg fits, Nat.min_eq_right (Nat.le_of_not_le fits)]

/-- Settles O53: the checks pass, and the context left is the unit added. -/
theorem addCommandsPlaceAndSpill : Obligations.AddCommandsPlaceAndSpill := by
  intro i ch len k c s add hs hc ready pos le room
  obtain ⟨params, -, chans, -⟩ := (State.ok_iff s).1 hs
  have ok := chans c (List.mem_of_getElem? hc)
  have init := Channel.isInit_of_isReady ok ready
  obtain ⟨-, hcap, -⟩ := Params.bounds (State.wellFormed_of_paramsOk params)
  have filled := filled_addUnit hcap (Channel.inFrame_of_ok ok init) s.inbuf len.toNat k
  have fits := Channel.stored_add_le ok init room
  have run := (exec_of_addCommand add s).trans (addData_of_ready hc init ready len k)
  rw [if_neg (by omega), if_neg (by omega), Channel.overruns_eq_false ok init, if_neg Bool.false_ne_true,
    Channel.addUnit_eq_of_pos s.params c s.inbuf pos] at run
  refine ⟨(c.addUnit s.params s.inbuf len.toNat k).frm, (c.addUnit s.params s.inbuf len.toNat k).ovf, run,
    filled.octets, fun packet clear free => ?pointer, fun unset => ?no_pointer, fun j hj => ?spilled,
    fun x apart => ?kept⟩
  case pointer =>
    have starts : 0 < min len.toNat c.free.toNat := by omega
    exact filled.pointer 0 (by simp [packet, starts]) clear
  case no_pointer =>
    refine filled.no_pointer ?_
    rcases unset with other | set | full
    · left; simp [other]
    · right; exact set
    · left; simp [full]
  case spilled =>
    rw [Channel.addUnit_ovf, Memory.read_writeRing _ _ _ (by rw [Memory.length_readBytes]; omega)
      (by rwa [Memory.length_readBytes])]
    simp [Memory.readBytes]
  case kept =>
    rw [Channel.addUnit_ovf, Memory.read_writeRing_of_ne]
    intro j hj
    rw [Nat.mod_add_mod]
    exact apart j (by simpa using hj)

/-! ### The refill (R209, R210) -/

/-- The ring of a channel holds the octets of the segments `l`, and what fits of them fits the frame (R27). -/
structure Channel.CanRefill (p : Params) (c : Channel) (l : List Segment) : Prop extends c.InFrame p where
  segments : segmentSum l = stored p c
  nonempty : ∀ g ∈ l, 1 ≤ g.n.toNat
  ring : c.ovfFree.toNat ≤ p.ovfCap
  head : c.ovfHead.toNat < p.ovfCap

theorem Channel.canRefill_of_ok {p : Params} {c : Channel} (h : c.ok p = true) (hi : c.isInit = true) :
    c.CanRefill p c.seg := by
  obtain ⟨-, -, -, -, ring, head, segments, nonempty, -⟩ := (Channel.ok_iff_of_init hi).1 h
  exact ⟨Channel.inFrame_of_ok h hi, segments, by simpa using nonempty, ring, head⟩

/-- Where a packet starts in what a segment puts into the frame: at its first octet, unless it is a continuation. -/
def Segment.mark (g : Segment) : Option Nat := if g.isPacket && !g.cont then some 0 else none

theorem Segment.isSome_mark (g : Segment) : g.mark.isSome = (g.isPacket && !g.cont) := by
  rw [Segment.mark]
  cases g.isPacket && !g.cont <;> rfl

/-- Where the first packet starts in the first `room` octets of the queued segments. -/
def markWithin (room : Nat) (l : List Segment) : Option Nat := (firstPacketStart l).filter (· < room)

theorem markWithin_zero (l : List Segment) : markWithin 0 l = none := by
  simp [markWithin]

theorem markWithin_cons {room : Nat} (pos : 0 < room) (g : Segment) (l : List Segment) : markWithin room (g :: l) =
    g.mark.orElse fun _ => (markWithin (room - g.n.toNat) l).map (g.n.toNat + ·) := by
  rw [markWithin, firstPacketStart, Segment.mark, markWithin]
  cases g.isPacket && !g.cont
  · cases firstPacketStart l with
    | none => rfl
    | some o =>
      have within : g.n.toNat + o < room ↔ o < room - g.n.toNat := by omega
      by_cases inside : o < room - g.n.toNat <;> simp [Option.filter, within, inside]
  · simp [Option.filter, pos]

/-- How many octets the refill moves. -/
def Channel.refillCount (p : Params) (c : Channel) : Nat := min (stored p c) c.free.toNat

/-- Octet `i` of the ring, from its head on (R25). -/
def Channel.ringOctet (p : Params) (c : Channel) (i : Nat) : Octet := c.ovf.read ((c.ovfHead.toNat + i) % p.ovfCap)

/-- The context that the refill from the segments `l` leaves, with the frame `f` (R210). -/
def Channel.refilled (p : Params) (c : Channel) (l : List Segment) (f : Memory) : Channel :=
  { c with
    fhpSet := c.fhpSet || (markWithin c.free.toNat l).isSome
    frm := f
    cur := BitVec.ofNat 16 (c.cur.toNat + c.refillCount p)
    free := BitVec.ofNat 16 (c.free.toNat - c.refillCount p)
    ovfHead := BitVec.ofNat 16 ((c.ovfHead.toNat + c.refillCount p) % p.ovfCap)
    ovfFree := BitVec.ofNat 17 (c.ovfFree.toNat + c.refillCount p)
    seg := consumed (c.refillCount p) l }

theorem consumed_zero {l : List Segment} (nonempty : ∀ g ∈ l, 1 ≤ g.n.toNat) : consumed 0 l = l := by
  cases l with
  | nil => rfl
  | cons g l =>
    have pos := nonempty g List.mem_cons_self
    rw [consumed, if_neg (by omega), if_pos rfl]

/-- A refill that has nothing to do. -/
theorem Channel.refilled_of_zero {p : Params} {c : Channel} {l : List Segment} (h : c.CanRefill p l)
    (unmarked : markWithin c.free.toNat l = none) (zero : c.refillCount p = 0) :
    c.refilled p l c.frm = { c with seg := l } := by
  simp [Channel.refilled, unmarked, zero, consumed_zero h.nonempty, Nat.mod_eq_of_lt h.head]

theorem Channel.copyFromOverflow_frm (p : Params) (c : Channel) (g : Segment) : (c.copyFromOverflow p g).frm =
    (c.marked (g.isPacket && !g.cont)).frm.writeBytes c.cur.toNat
      (c.ovf.readRing p.ovfCap c.ovfHead.toNat (c.segmentFit g)) :=
  congrArg (fun cur : Half => (c.marked _).frm.writeBytes cur.toNat _) (c.marked_cur _)

theorem Channel.copyFromOverflow_fhpSet (p : Params) (c : Channel) (g : Segment) :
    (c.copyFromOverflow p g).fhpSet = (c.fhpSet || g.mark.isSome) := by
  rw [Channel.copyFromOverflow_eq, g.isSome_mark]

theorem filled_copyFromOverflow {p : Params} {c : Channel} (hcap : p.frameCap ≤ 2048) (inFrame : c.InFrame p)
    (g : Segment) : Filled c g.mark (c.segmentFit g) (c.ringOctet p) (c.copyFromOverflow p g).frm := by
  rw [Channel.copyFromOverflow_frm]
  exact filled_marked_writeBytes hcap inFrame _ _ _

section
variable {p : Params} {c : Channel} {g : Segment} {l : List Segment} (h : c.CanRefill p (g :: l))
include h

/-- A segment of which a part fills the frame. -/
theorem Channel.refilled_of_part (room : 0 < c.free.toNat) (part : c.segmentFit g ≠ g.n.toNat) :
    c.refillCount p = c.segmentFit g ∧ markWithin c.free.toNat (g :: l) = g.mark ∧
      c.refilled p (g :: l) (c.copyFromOverflow p g).frm =
        { c.copyFromOverflow p g with seg := g.rest (c.segmentFit g) :: l } := by
  obtain ⟨-, segments, -, -, -⟩ := h
  have fit : c.segmentFit g = min g.n.toNat c.free.toNat := rfl
  have sum : segmentSum (g :: l) = g.n.toNat + segmentSum l := by simp [segmentSum]
  have count : c.refillCount p = c.segmentFit g := by
    rw [Channel.refillCount]
    omega
  have beyond : c.free.toNat - g.n.toNat = 0 := by omega
  have mark : markWithin c.free.toNat (g :: l) = g.mark := by
    rw [markWithin_cons room, beyond, markWithin_zero]
    cases g.mark <;> rfl
  have left : consumed (c.segmentFit g) (g :: l) = g.rest (c.segmentFit g) :: l := by
    rw [consumed, if_neg (by omega), if_neg (by omega)]
    rfl
  refine ⟨count, mark, ?_⟩
  rw [Channel.refilled, count, mark, g.isSome_mark, left, Channel.copyFromOverflow_eq p c g]

variable (hp : p.wellFormed = true)
include hp

/-- The registers after the head segment, or as much of it as fits, was copied. -/
theorem Channel.copyFromOverflow_registers :
    (c.copyFromOverflow p g).cur.toNat = c.cur.toNat + c.segmentFit g ∧
      (c.copyFromOverflow p g).free.toNat = c.free.toNat - c.segmentFit g ∧
      (c.copyFromOverflow p g).ovfHead.toNat = (c.ovfHead.toNat + c.segmentFit g) % p.ovfCap ∧
      (c.copyFromOverflow p g).ovfFree.toNat = c.ovfFree.toNat + c.segmentFit g := by
  obtain ⟨-, hcap, -, hring, -⟩ := Params.bounds hp
  obtain ⟨⟨-, -, room⟩, segments, -, ring, head⟩ := h
  have fit : c.segmentFit g = min g.n.toNat c.free.toNat := rfl
  have sum : segmentSum (g :: l) = g.n.toNat + segmentSum l := by simp [segmentSum]
  have inRing := Nat.mod_lt (c.ovfHead.toNat + c.segmentFit g) (Nat.zero_lt_of_lt head)
  rw [stored] at segments
  rw [Channel.copyFromOverflow_eq]
  refine ⟨?_, ?_, ?_, ?_⟩ <;> rw [BitVec.toNat_ofNat, Nat.mod_eq_of_lt (by omega)]

theorem Channel.canRefill_copyFromOverflow (whole : c.segmentFit g = g.n.toNat) :
    (c.copyFromOverflow p g).CanRefill p l := by
  obtain ⟨cur', free', head', ring'⟩ := Channel.copyFromOverflow_registers h hp
  obtain ⟨⟨header, started, room⟩, segments, nonempty, ring, head⟩ := h
  have fit : c.segmentFit g = min g.n.toNat c.free.toNat := rfl
  have sum : segmentSum (g :: l) = g.n.toNat + segmentSum l := by simp [segmentSum]
  rw [stored] at segments
  refine ⟨⟨?header, ?started, ?room⟩, ?segments, fun x hx => nonempty x (List.mem_cons_of_mem g hx), ?ring, ?head⟩
  case header => rwa [Channel.copyFromOverflow_dataOff]
  case started => rw [Channel.copyFromOverflow_dataOff, cur']; omega
  case room => rw [cur', free']; omega
  case segments => rw [stored, ring']; omega
  case ring => rw [ring']; omega
  case head => rw [head']; exact Nat.mod_lt _ (Nat.zero_lt_of_lt head)

/-- A whole segment copied, and the refill from the others after it. -/
theorem Channel.refilled_of_whole (room : 0 < c.free.toNat) (whole : c.segmentFit g = g.n.toNat) :
    c.refillCount p = g.n.toNat + (c.copyFromOverflow p g).refillCount p ∧
      ∀ f, c.refilled p (g :: l) f = (c.copyFromOverflow p g).refilled p l f := by
  obtain ⟨cur', free', head', ring'⟩ := Channel.copyFromOverflow_registers h hp
  obtain ⟨-, segments, -, ring, -⟩ := h
  have fit : c.segmentFit g = min g.n.toNat c.free.toNat := rfl
  have sum : segmentSum (g :: l) = g.n.toNat + segmentSum l := by simp [segmentSum]
  have count : c.refillCount p = g.n.toNat + (c.copyFromOverflow p g).refillCount p := by
    rw [stored] at segments
    rw [Channel.refillCount, Channel.refillCount, stored, stored, free', ring']
    omega
  refine ⟨count, fun f => ?_⟩
  have marks : (markWithin c.free.toNat (g :: l)).isSome =
      (g.mark.isSome || (markWithin (c.free.toNat - g.n.toNat) l).isSome) := by
    rw [markWithin_cons room]
    cases g.mark
    · exact Option.isSome_map
    · rfl
  have left (n : Nat) : consumed (g.n.toNat + n) (g :: l) = consumed n l := by
    rw [consumed, if_pos (by omega), Nat.add_sub_cancel_left]
  rw [Channel.refilled, Channel.refilled, count, marks, left, cur', free', head', ring',
    Channel.copyFromOverflow_fhpSet, whole]
  simp [Nat.add_assoc, Nat.sub_sub, Bool.or_assoc]

end

/-- The octets of a whole segment, then the octets that the refill from the others places. -/
theorem filled_of_whole {p : Params} (hp : p.wellFormed = true) {c : Channel} {g : Segment} {l : List Segment}
    (h : c.CanRefill p (g :: l)) (room : 0 < c.free.toNat) (whole : c.segmentFit g = g.n.toNat) {f : Memory}
    (rest : Filled (c.copyFromOverflow p g) (markWithin (c.copyFromOverflow p g).free.toNat l)
      ((c.copyFromOverflow p g).refillCount p) ((c.copyFromOverflow p g).ringOctet p) f) :
    Filled c (markWithin c.free.toNat (g :: l)) (c.refillCount p) (c.ringOctet p) f := by
  obtain ⟨-, hcap, -⟩ := Params.bounds hp
  obtain ⟨cur', free', head', -⟩ := Channel.copyFromOverflow_registers h hp
  obtain ⟨count, -⟩ := Channel.refilled_of_whole h hp room whole
  have both := (filled_copyFromOverflow hcap h.toInFrame g).trans rest h.started cur'
    (Channel.copyFromOverflow_dataOff p c g) (Channel.copyFromOverflow_fhpSet p c g)
  rw [whole, free', whole, ← markWithin_cons room, ← count] at both
  refine both.congr fun i _ => ?_
  split
  · rfl
  · rename_i behind
    have index : c.ovfHead.toNat + g.n.toNat + (i - g.n.toNat) = c.ovfHead.toNat + i := by omega
    rw [Channel.ringOctet, Channel.copyFromOverflow_ovf, head', whole, Nat.mod_add_mod, index, Channel.ringOctet]

/-- The refill of a sound channel ends, and fills the frame from the head of the ring. -/
theorem refill_filled {p : Params} (hp : p.wellFormed = true) {l : List Segment} {c : Channel} (h : c.CanRefill p l) :
    ∃ f, Channel.refill p l c = .ok (c.refilled p l f) ∧
      Filled c (markWithin c.free.toNat l) (c.refillCount p) (c.ringOctet p) f := by
  obtain ⟨-, hcap, -, hring, -⟩ := Params.bounds hp
  induction l generalizing c with
  | nil =>
    have empty : stored p c = 0 := h.segments.symm
    have zero : c.refillCount p = 0 := by rw [Channel.refillCount, empty, Nat.zero_min]
    refine ⟨c.frm, ?_, zero ▸ Filled.refl c _⟩
    rw [Channel.refilled_of_zero h rfl zero, Channel.refill, if_neg]
    exact fun more => absurd empty (Nat.ne_of_gt more.1)
  | cons g l ih =>
    have pos := h.nonempty g List.mem_cons_self
    have held : stored p c = g.n.toNat + segmentSum l := by rw [← h.segments]; simp [segmentSum]
    rw [Channel.refill]
    by_cases full : c.free.toNat = 0
    · have unmarked : markWithin c.free.toNat (g :: l) = none := by rw [full, markWithin_zero]
      have zero : c.refillCount p = 0 := by rw [Channel.refillCount, full, Nat.min_zero]
      rw [if_pos (.inr full)]
      refine ⟨c.frm, by rw [Channel.refilled_of_zero h unmarked zero], ?_⟩
      rw [unmarked, zero]
      exact Filled.refl c _
    · have room := Nat.pos_of_ne_zero full
      have more : ¬(c.ovfCount p = 0 ∨ c.free.toNat = 0) := by
        rintro (empty | noRoom)
        · exact absurd (show stored p c = 0 from empty) (by omega)
        · exact full noRoom
      have inside : ¬c.overruns p (c.segmentFit g) = true := by
        have fits := h.room
        rw [Channel.overruns, decide_eq_true_eq, Channel.segmentFit]
        omega
      rw [if_neg more, if_neg inside]
      by_cases whole : c.segmentFit g = g.n.toNat
      · obtain ⟨f, refilled, filled⟩ := ih (Channel.canRefill_copyFromOverflow h hp whole)
        obtain ⟨-, same⟩ := Channel.refilled_of_whole h hp room whole
        exact ⟨f, by rw [if_pos whole, refilled, same], filled_of_whole hp h room whole filled⟩
      · obtain ⟨count, mark, refilled⟩ := Channel.refilled_of_part h room whole
        refine ⟨(c.copyFromOverflow p g).frm, by rw [if_neg whole, refilled], ?_⟩
        rw [count, mark]
        exact filled_copyFromOverflow hcap h.toInFrame g

/-! ### SDLP_START_FRAME (R209) -/

theorem markWithin_eq_some {room o : Nat} {l : List Segment} (first : firstPacketStart l = some o) (inside : o < room) :
    markWithin room l = some o := by
  rw [markWithin, first, Option.filter_some, if_pos (decide_eq_true inside)]

theorem markWithin_eq_none {room : Nat} {l : List Segment}
    (h : firstPacketStart l = none ∨ ∃ o, firstPacketStart l = some o ∧ room ≤ o) : markWithin room l = none := by
  rcases h with noPacket | ⟨o, first, beyond⟩
  · rw [markWithin, noPacket, Option.filter_none]
  · rw [markWithin, first, Option.filter_some, if_neg (by simpa using beyond)]

/-- On an initialised channel of a sound state, SDLP_START_FRAME is the refill. -/
theorem startFrame_refills {s : State} {ch : BitVec 8} {c : Channel} (hs : s.Ok = true)
    (hc : s.chans[ch.toNat]? = some c) (init : c.isInit = true) :
    ∃ f, exec (.sdlpStartFrame ch) s =
        done (s.setChannel ch (Channel.refilled s.params { c with isReady := true } c.seg f)) 0 ∧
      Filled c (markWithin c.free.toNat c.seg) (c.refillCount s.params) (c.ringOctet s.params) f := by
  obtain ⟨params, -, chans, -⟩ := (State.ok_iff s).1 hs
  have h := Channel.canRefill_of_ok (chans c (List.mem_of_getElem? hc)) init
  obtain ⟨⟨header, started, room⟩, segments, nonempty, ring, head⟩ := h
  obtain ⟨f, refilled, filled⟩ := refill_filled (State.wellFormed_of_paramsOk params)
    (c := { c with isReady := true }) ⟨⟨header, started, room⟩, segments, nonempty, ring, head⟩
  refine ⟨f, (withChannel_of_some hc _).trans ?_, ⟨filled.octets, filled.pointer, filled.no_pointer⟩⟩
  have checked : ¬(!c.isInit) = true := by simp [init]
  rw [if_neg checked, refilled]

/-- Settles O52: the refill's context, and the octets and the pointer it leaves in the frame. -/
theorem startFrameRefillsFromTheRing : Obligations.StartFrameRefillsFromTheRing := by
  intro ch c s hs hc init
  obtain ⟨f, run, filled⟩ := startFrame_refills hs hc init
  refine ⟨f, c.fhpSet || (markWithin c.free.toNat c.seg).isSome, run, filled.octets,
    fun o clear first inside => ?pointer, fun unset => ?no_pointer⟩
  case pointer =>
    have mark := markWithin_eq_some first inside
    rw [mark]
    exact ⟨Bool.or_true _, filled.pointer o mark clear⟩
  case no_pointer =>
    rcases unset with set | beyond
    · rw [set]
      exact ⟨Bool.true_or _, filled.no_pointer (.inr set)⟩
    · have unmarked := markWithin_eq_none beyond
      rw [unmarked]
      exact ⟨Bool.or_false _, filled.no_pointer (.inl unmarked)⟩

end Sys2Proof.Machine
end

section
/-! SUPPORT. Completing a frame (47_tm_sdlp.md R222) octet by octet, and the octets of a channel from one command to the
next (R217). -/

namespace Sys2Proof.Machine

open Claims (closedOctet oct serialCrc stored stream)

/-! ### The completed frame (R222) -/

/-- The frame that the error-control field covers: counters, pointer sentinel and OCF are written (R222). -/
def Channel.closedFrame (c : Channel) (mc : BitVec 8) (ocf : Word) : Memory :=
  let f := writeCounts c.frm c.isVc mc (c.vcfc + 1)
  let f := if c.fhpSet then f else tmSetFhp f noFirstHeaderPointer
  if c.ocfFlag then tmSetOcf f c.ocfOff.toNat ocf else f

theorem Channel.completedFrame_eq (c : Channel) (mc : BitVec 8) (ocf : Word) : c.completedFrame mc ocf =
    if c.fecfFlag then updateCrc (c.closedFrame mc ocf) c.fecfOff.toNat else c.closedFrame mc ocf := rfl

theorem oct_writeCounts (f : Memory) (isVc : Bool) (mc vc : BitVec 8) (x : Nat) : oct (writeCounts f isVc mc vc) x =
    if x = 2 then mc.toNat else if x = 3 ∧ isVc = true then vc.toNat else oct f x := by
  cases isVc
  · simp [writeCounts, oct_tmSetMcCount]
  · simp [writeCounts, oct_tmSetMcCount, oct_tmSetVcCount]
    split_ifs <;> omega

/-- The counters and the pointer sentinel, octet by octet. -/
theorem oct_sentinel (f : Memory) (fhpSet : Bool) (x : Nat) :
    oct (if fhpSet then f else tmSetFhp f noFirstHeaderPointer) x =
      if x = 4 ∧ fhpSet = false then oct f 4 / 8 * 8 + 7 else if x = 5 ∧ fhpSet = false then 255 else oct f x := by
  cases fhpSet
  · simp [oct_tmSetFhp, noFirstHeaderPointer]
  · simp

theorem oct_ocf (f : Memory) (flag : Bool) (off : Nat) (d : Word) (x : Nat) :
    oct (if flag then tmSetOcf f off d else f) x =
      if flag = true ∧ x = off then d.toNat / 2 ^ 24
      else if flag = true ∧ x = off + 1 then d.toNat / 2 ^ 16 % 256
      else if flag = true ∧ x = off + 2 then d.toNat / 2 ^ 8 % 256
      else if flag = true ∧ x = off + 3 then d.toNat % 256 else oct f x := by
  cases flag
  · simp
  · simp [oct_tmSetOcf]

/-- Every octet before the error-control field: the OCF lies behind the header, so no write covers another. -/
theorem read_closedFrame (s : State) {c : Channel} (behind : c.ocfFlag = true → 6 ≤ c.ocfOff.toNat) (ocf : Word)
    (x : Nat) : (c.closedFrame (s.mcfc + 1) ocf).read x = closedOctet s c ocf x := by
  apply BitVec.eq_of_toNat_eq
  have word := ocf.isLt
  have octet := oct_lt c.frm 4
  change oct (c.closedFrame (s.mcfc + 1) ocf) x = _
  simp only [Channel.closedFrame, oct_ocf, oct_sentinel, oct_writeCounts, closedOctet, apply_ite BitVec.toNat,
    BitVec.toNat_ofNat]
  by_cases header : x < 6
  · have apart (y : Nat) (hy : c.ocfOff.toNat ≤ y) : ¬(c.ocfFlag = true ∧ x = y) := fun ⟨flag, same⟩ => by
      have := behind flag
      omega
    have sentinel : (oct c.frm 4 / 8 * 8 + 7) % 2 ^ 8 = oct c.frm 4 / 8 * 8 + 7 := by omega
    simp only [if_neg (apart _ (Nat.le_refl _)), if_neg (apart _ (Nat.le_add_right _ _)), sentinel]
    interval_cases x <;> simp [oct]
  · have ne (k : Nat) (hk : k < 6) : x ≠ k := by omega
    simp only [ne 2 (by omega), ne 3 (by omega), ne 4 (by omega), ne 5 (by omega), false_and, if_false]
    have first : ocf.toNat / 2 ^ 24 % 2 ^ 8 = ocf.toNat / 2 ^ 24 := by omega
    rw [first]
    rfl

/-- The error-control field is the CRC of every octet before it. -/
theorem trailerCrc_closedFrame (s : State) {c : Channel} (behind : c.ocfFlag = true → 6 ≤ c.ocfOff.toNat) (ocf : Word)
    (off : Nat) : trailerCrc (c.closedFrame (s.mcfc + 1) ocf) off =
      serialCrc ((List.range off).map (closedOctet s c ocf) ++ [0, 0]) := by
  have covered : (c.closedFrame (s.mcfc + 1) ocf).readBytes 0 off = (List.range off).map (closedOctet s c ocf) :=
    List.map_congr_left fun x _ => by rw [Nat.zero_add, read_closedFrame s behind]
  rw [trailerCrc_eq, covered, serialCrc_eq_crcOf]

theorem read_completedFrame (s : State) {c : Channel} (behind : c.ocfFlag = true → 6 ≤ c.ocfOff.toNat) (ocf : Word)
    {x : Nat} (outside : c.fecfFlag = false ∨ (x ≠ c.fecfOff.toNat ∧ x ≠ c.fecfOff.toNat + 1)) :
    (c.completedFrame (s.mcfc + 1) ocf).read x = closedOctet s c ocf x := by
  rw [Channel.completedFrame_eq]
  cases fecf : c.fecfFlag
  · exact read_closedFrame s behind ocf x
  · obtain ⟨high, low⟩ := outside.resolve_left (by simp [fecf])
    rw [if_pos rfl, read_updateCrc, if_neg high, if_neg low, read_closedFrame s behind]

theorem fecf_completedFrame (s : State) {c : Channel} (behind : c.ocfFlag = true → 6 ≤ c.ocfOff.toNat) (ocf : Word)
    (fecf : c.fecfFlag = true) :
    oct (c.completedFrame (s.mcfc + 1) ocf) c.fecfOff.toNat * 256 +
        oct (c.completedFrame (s.mcfc + 1) ocf) (c.fecfOff.toNat + 1) =
      (serialCrc ((List.range c.fecfOff.toNat).map (closedOctet s c ocf) ++ [0, 0])).toNat := by
  rw [Channel.completedFrame_eq, if_pos fecf, oct_updateCrc, oct_updateCrc, if_pos rfl, if_neg (by omega), if_pos rfl,
    trailerCrc_closedFrame s behind]
  omega

/-- The trailers of a sound channel lie behind what was written of its data field (R206, R27 a). -/
theorem Channel.trailers_behind {p : Params} {c : Channel} (h : c.ok p = true) (hi : c.isInit = true) :
    (c.ocfFlag = true → c.cur.toNat ≤ c.ocfOff.toNat) ∧ (c.fecfFlag = true → c.cur.toNat ≤ c.fecfOff.toNat) := by
  obtain ⟨-, layout, free, cur, -⟩ := (Channel.ok_iff_of_init hi).1 h
  obtain ⟨-, -, -, -, ocf, fecf, -⟩ := Channel.layout_bounds layout
  refine ⟨fun flag => ?_, fun flag => ?_⟩
  · obtain ⟨behind, -⟩ := ocf flag
    omega
  · obtain ⟨behind, -⟩ := fecf flag
    omega

theorem Channel.ocf_behind_header {p : Params} {c : Channel} (h : c.ok p = true) (hi : c.isInit = true) :
    c.ocfFlag = true → 6 ≤ c.ocfOff.toNat := fun flag => by
  obtain ⟨header, started, -⟩ := Channel.inFrame_of_ok h hi
  obtain ⟨ocf, -⟩ := Channel.trailers_behind h hi
  have := ocf flag
  omega

theorem completeFrame_of_ok {s : State} {ch : BitVec 8} {c : Channel} (hc : s.chans[ch.toNat]? = some c)
    (init : c.isInit = true) (ok : c.ok s.params = true) {present : Bool} (supplied : c.ocfFlag = true → present = true)
    (ocf : Word) : exec (.sdlpCompleteFrame ch present ocf) s =
      done ((s.setMcfc (s.mcfc + 1)).setChannel ch (c.complete (s.mcfc + 1) ocf)) (c.frameLen.setWidth 32) := by
  have no_missing : (c.ocfFlag && !present) = false := by
    cases flag : c.ocfFlag
    · rfl
    · rw [supplied flag]; rfl
  refine (withChannel_of_some hc _).trans ?_
  simp only [init, no_missing, Channel.trailersFit_of_ok ok init, Bool.not_true, Bool.false_eq_true, if_false]

/-- Settles O54: the command leaves the completed frame, of which every octet is known. -/
theorem completeFrameClosesTheFrame : Obligations.CompleteFrameClosesTheFrame := by
  intro ch present ocf c s hs hc init supplied
  obtain ⟨-, -, chans, -⟩ := (State.ok_iff s).1 hs
  have ok := chans c (List.mem_of_getElem? hc)
  have behind := Channel.ocf_behind_header ok init
  exact ⟨c.completedFrame (s.mcfc + 1) ocf, answers_ok_of_done (completeFrame_of_ok hc init ok supplied ocf) rfl,
    fun _ => read_completedFrame s behind ocf, fecf_completedFrame s behind ocf⟩

/-! ### The octets a channel holds (R217) -/

theorem Memory.readBytes_from_zero (m : Memory) (n : Nat) : m.readBytes 0 n = (List.range n).map m.read :=
  List.map_congr_left fun i _ => congrArg m.read (Nat.zero_add i)

theorem Memory.readBytes_split (m : Memory) {n len : Nat} (h : n ≤ len) :
    m.readBytes 0 len = m.readBytes 0 n ++ m.readBytes n (len - n) := by
  have parts := Memory.readBytes_add m 0 n (len - n)
  rwa [Nat.zero_add, Nat.add_sub_cancel' h] at parts

theorem State.getElem?_setChannel_same {s : State} {ch : BitVec 8} {c : Channel} (hc : s.chans[ch.toNat]? = some c)
    (c' : Channel) : (s.setChannel ch c').chans[ch.toNat]? = some c' := by
  rw [State.setChannel_chans, List.getElem?_set_self', hc]
  rfl

/-- A ready channel of a sound state with room in its frame has an empty ring (R27 d). -/
theorem Channel.stored_eq_zero {p : Params} {c : Channel} (ok : c.ok p = true) (init : c.isInit = true)
    (ready : c.isReady = true) (room : 0 < c.free.toNat) : stored p c = 0 := by
  obtain ⟨-, -, -, -, -, -, -, -, -, empty⟩ := (Channel.ok_iff_of_init init).1 ok
  exact empty ready room

theorem closedOctet_of_data (s : State) {c : Channel} (ocf : Word) {x : Nat} (header : 6 ≤ x)
    (before : c.ocfFlag = true → x < c.ocfOff.toNat) : closedOctet s c ocf x = c.frm.read x := by
  have apart (y : Nat) (hy : c.ocfOff.toNat ≤ y) : ¬(c.ocfFlag = true ∧ x = y) := fun ⟨flag, same⟩ => by
    have := before flag
    omega
  rw [closedOctet, if_neg (by omega), if_neg (by omega), if_neg (by omega), if_neg (by omega),
    if_neg (apart _ (Nat.le_refl _)), if_neg (apart _ (Nat.le_add_right _ _)), if_neg (apart _ (Nat.le_add_right _ _)),
    if_neg (apart _ (Nat.le_add_right _ _))]

section
variable {p : Params} {c : Channel} (ok : c.ok p = true) (init : c.isInit = true)
include ok init

/-- The completed frame keeps the data field, and the ring is what the channel holds on. -/
theorem stream_complete (s : State) (ocf : Word) :
    stream p c = (c.complete (s.mcfc + 1) ocf).frm.readBytes c.dataOff.toNat (c.cur.toNat - c.dataOff.toNat) ++
      stream p (c.complete (s.mcfc + 1) ocf) := by
  obtain ⟨header, started, -⟩ := Channel.inFrame_of_ok ok init
  obtain ⟨ocfOff, fecfOff⟩ := Channel.trailers_behind ok init
  have data : (c.complete (s.mcfc + 1) ocf).frm.readBytes c.dataOff.toNat (c.cur.toNat - c.dataOff.toNat) =
      c.frm.readBytes c.dataOff.toNat (c.cur.toNat - c.dataOff.toNat) := by
    refine Memory.readBytes_congr fun i hi => ?_
    have outside : c.fecfFlag = false ∨
        (c.dataOff.toNat + i ≠ c.fecfOff.toNat ∧ c.dataOff.toNat + i ≠ c.fecfOff.toNat + 1) := by
      cases flag : c.fecfFlag
      · exact .inl rfl
      · have := fecfOff flag
        right
        omega
    refine (read_completedFrame s (Channel.ocf_behind_header ok init) ocf outside).trans ?_
    exact closedOctet_of_data s ocf (by omega) fun flag => by have := ocfOff flag; omega
  have empty :
      (c.complete (s.mcfc + 1) ocf).frm.readBytes c.dataOff.toNat (c.dataOff.toNat - c.dataOff.toNat) = [] := by
    rw [Nat.sub_self, Memory.readBytes_zero]
  have rest : stream p (c.complete (s.mcfc + 1) ocf) = c.ovf.readRing p.ovfCap c.ovfHead.toNat (stored p c) :=
    congrArg (· ++ _) empty
  rw [data, rest, stream]

variable (hp : p.wellFormed = true)
include hp

/-- The cursor and the ring's count after a unit was added. -/
theorem Channel.addUnit_registers (m : Memory) {len : Nat} (k : Bool)
    (room : len - min len c.free.toNat ≤ c.ovfFree.toNat) :
    (c.addUnit p m len k).cur.toNat = c.cur.toNat + min len c.free.toNat ∧
      stored p (c.addUnit p m len k) = stored p c + (len - min len c.free.toNat) := by
  obtain ⟨-, hcap, -, hring, -⟩ := Params.bounds hp
  obtain ⟨-, -, inside⟩ := Channel.inFrame_of_ok ok init
  have ovfFree := (Channel.canRefill_of_ok ok init).ring
  rw [Channel.addUnit_eq, stored, stored, BitVec.toNat_ofNat, BitVec.toNat_ofNat, Nat.mod_eq_of_lt (by omega),
    Nat.mod_eq_of_lt (by omega)]
  exact ⟨rfl, by omega⟩

/-- A unit added goes behind what the channel held: the ring is empty when an octet of the unit enters the frame. -/
theorem stream_addUnit (ready : c.isReady = true) (m : Memory) (len : Nat) (k : Bool)
    (room : len - min len c.free.toNat ≤ c.ovfFree.toNat) :
    stream p (c.addUnit p m len k) = stream p c ++ m.readBytes 0 len := by
  obtain ⟨-, hcap, -⟩ := Params.bounds hp
  obtain ⟨cur, count⟩ := Channel.addUnit_registers ok init hp m k room
  have inFrame := Channel.inFrame_of_ok ok init
  have fits := Channel.stored_add_le ok init room
  have data := (filled_addUnit hcap inFrame m len k).readBytes inFrame
  have ring := Memory.readRing_writeRing_append c.ovf p.ovfCap c.ovfHead.toNat (stored p c)
    (m.readBytes (min len c.free.toNat) (len - min len c.free.toNat)) (by rwa [Memory.length_readBytes])
  rw [Memory.length_readBytes] at ring
  have order : m.readBytes 0 (min len c.free.toNat) ++ c.ovf.readRing p.ovfCap c.ovfHead.toNat (stored p c) =
      c.ovf.readRing p.ovfCap c.ovfHead.toNat (stored p c) ++ m.readBytes 0 (min len c.free.toNat) := by
    rcases Nat.eq_zero_or_pos c.free.toNat with full | free
    · rw [full, Nat.min_zero, Memory.readBytes_zero, List.append_nil, List.nil_append]
    · rw [Channel.stored_eq_zero ok init ready free, Memory.readRing_zero, List.append_nil, List.nil_append]
  rw [stream, Channel.addUnit_dataOff, Channel.addUnit_ovfHead, Channel.addUnit_ovf, cur, count, data, ring,
    ← Memory.readBytes_from_zero, List.append_assoc, ← List.append_assoc (m.readBytes 0 _), order,
    Memory.readBytes_split m (Nat.min_le_left len c.free.toNat), stream]
  simp only [List.append_assoc]

/-- The cursor, the head and the ring's count after the refill. -/
theorem Channel.refilled_registers (l : List Segment) (f : Memory) :
    (c.refilled p l f).cur.toNat = c.cur.toNat + c.refillCount p ∧
      (c.refilled p l f).ovfHead.toNat = (c.ovfHead.toNat + c.refillCount p) % p.ovfCap ∧
      stored p (c.refilled p l f) = stored p c - c.refillCount p := by
  obtain ⟨-, hcap, -, hring, -⟩ := Params.bounds hp
  obtain ⟨⟨-, -, inside⟩, -, -, ovfFree, head⟩ := Channel.canRefill_of_ok ok init
  have count : c.refillCount p = min (p.ovfCap - c.ovfFree.toNat) c.free.toNat := rfl
  have inRing := Nat.mod_lt (c.ovfHead.toNat + c.refillCount p) (Nat.zero_lt_of_lt head)
  have ovfFree' : (c.refilled p l f).ovfFree.toNat = c.ovfFree.toNat + c.refillCount p := by
    rw [Channel.refilled, BitVec.toNat_ofNat, Nat.mod_eq_of_lt (by omega)]
  refine ⟨?_, ?_, ?_⟩
  · rw [Channel.refilled, BitVec.toNat_ofNat, Nat.mod_eq_of_lt (by omega)]
  · exact (BitVec.toNat_ofNat _ _).trans (Nat.mod_eq_of_lt (by omega))
  · rw [stored, stored, ovfFree', Nat.sub_sub]

/-- The refill moves octets from the head of the ring to the end of the data field. -/
theorem stream_refilled (l : List Segment) {f : Memory}
    (filled : Filled c (markWithin c.free.toNat l) (c.refillCount p) (c.ringOctet p) f) :
    stream p (c.refilled p l f) = stream p c := by
  obtain ⟨cur, head, count⟩ := Channel.refilled_registers ok init hp l f
  have held : stored p c = c.refillCount p + (stored p c - c.refillCount p) :=
    (Nat.add_sub_cancel' (Nat.min_le_left _ _)).symm
  have data : (c.refilled p l f).frm.readBytes (c.refilled p l f).dataOff.toNat
      (c.cur.toNat + c.refillCount p - (c.refilled p l f).dataOff.toNat) = _ :=
    filled.readBytes (Channel.inFrame_of_ok ok init)
  have ring : c.ovf.readRing p.ovfCap c.ovfHead.toNat (stored p c) =
      (List.range (c.refillCount p)).map (c.ringOctet p) ++ (c.refilled p l f).ovf.readRing p.ovfCap
        ((c.ovfHead.toNat + c.refillCount p) % p.ovfCap) (stored p c - c.refillCount p) := by
    rw [held, Memory.readRing_add, ← held]
    rfl
  rw [stream, cur, head, count, data, List.append_assoc, ← ring, stream]

end

/-- Settles O57: a command that answers OK is one of the three operations on the context of its channel. -/
theorem packetStreamIsConserved : Obligations.PacketStreamIsConserved := by
  intro ch c s t hs hc status
  obtain ⟨params, -, chans, -⟩ := (State.ok_iff s).1 hs
  have hp := State.wellFormed_of_paramsOk params
  have ok := chans c (List.mem_of_getElem? hc)
  refine ⟨fun i len k add h => ?add, fun h => ?start, fun present ocf h => ?complete⟩
  case add =>
    rw [exec_of_addCommand add] at h
    rcases addData_next h with ⟨st, failed, rfl⟩ | ⟨c₀, hc₀, init, ready, -, -, room, -, rfl⟩
    · exact absurd (statusCode_eq_zero status) failed
    · obtain rfl := Option.some.inj (hc.symm.trans hc₀)
      exact ⟨_, State.getElem?_setChannel_same hc _, stream_addUnit ok init hp ready s.inbuf len.toNat k room⟩
  case start =>
    rcases execSdlpStartFrame_next h with ⟨st, failed, rfl⟩ | ⟨c₀, -, hc₀, init, -, -⟩
    · exact absurd (statusCode_eq_zero status) failed
    · obtain rfl := Option.some.inj (hc.symm.trans hc₀)
      obtain ⟨f, run, filled⟩ := startFrame_refills hs hc init
      obtain rfl := (done_next _ _ _).1 (run.symm.trans h)
      have same : stream s.params (Channel.refilled s.params { c with isReady := true } c.seg f) = stream s.params c :=
        stream_refilled ok init hp c.seg filled
      exact ⟨_, State.getElem?_setChannel_same hc _, same⟩
  case complete =>
    rcases execSdlpCompleteFrame_next h with ⟨st, failed, rfl⟩ | ⟨c₀, hc₀, init, -, -, rfl⟩
    · exact absurd (statusCode_eq_zero status) failed
    · obtain rfl := Option.some.inj (hc.symm.trans hc₀)
      exact ⟨_, State.getElem?_setChannel_same (s := s.setMcfc _) hc _, stream_complete ok init s ocf⟩

end Sys2Proof.Machine
end
